-- ==== Sys2Proof/Word.lean ====
section
/-! DEFINITION. The value types of the core: bytes, 16-bit values and 8-byte blocks, all unsigned (00_scope.md R8). -/

namespace Sys2Proof

/-- `UInt8` of the spec (R8). -/
abbrev Byte := BitVec 8

/-- `UInt16` of the spec (R8): addresses, lengths, the CRC accumulator. -/
abbrev Half := BitVec 16

/-- `UInt8[8]`: a ROM identifier (10_state.md R37), a page, or the configuration block. Element 0 is `b0`;
it is the one sent and received first (20_memory.md R73). -/
structure Bytes8 where
  b0 : Byte
  b1 : Byte
  b2 : Byte
  b3 : Byte
  b4 : Byte
  b5 : Byte
  b6 : Byte
  b7 : Byte
deriving DecidableEq, Repr, Inhabited

/-- Eight zero bytes, `[0] * 8` of the pseudocode. -/
def Bytes8.zero : Bytes8 := ⟨0, 0, 0, 0, 0, 0, 0, 0⟩

end Sys2Proof
end

