-- ==== Sys2Proof/Config.lean ====
section
/-! DEFINITION. The implementation parameters as one configuration record (00_scope.md R6), the port events
(00_scope.md R11), and the environment's answers, the one free value of the model (10_state.md R48). -/

namespace Sys2Proof

/-- Which of the two timing profiles a slot, byte or reset uses (40_bit_transport.md R142). -/
inductive Prof where
  /-- the standard profile, STD -/
  | std
  /-- the overdrive profile, OD -/
  | od
deriving DecidableEq, Repr, Inhabited

/-- A timing profile: delay arguments in microseconds and poll budgets (40_bit_transport.md R140). -/
structure Profile where
  /-- write-1: low time -/
  tW1L : Nat
  /-- write-1: released time to slot end -/
  tW1H : Nat
  /-- write-0: low time -/
  tW0L : Nat
  /-- write-0: recovery after release -/
  tW0H : Nat
  /-- read: low time -/
  tRL : Nat
  /-- read: release to sample -/
  tRS : Nat
  /-- read: recovery after sample -/
  tRR : Nat
  /-- reset: low time -/
  tRSTL : Nat
  /-- reset: release before polling -/
  tRSTH : Nat
  /-- reset: polls for presence low -/
  nPDL : Nat
  /-- reset: polls for presence end -/
  nPDH : Nat
  /-- reset: delay per poll -/
  tPOLL : Nat
deriving DecidableEq, Repr

/-- `PROF_STD`, 40_bit_transport.md R140. The spec's defaults, from values the source marks approximate (log 15). -/
def profStd : Profile where
  tW1L := 2
  tW1H := 65
  tW0L := 65
  tW0H := 2
  tRL := 2
  tRS := 10
  tRR := 55
  tRSTL := 550
  tRSTH := 15
  nPDL := 200
  nPDH := 240
  tPOLL := 1

/-- `PROF_OD`, 40_bit_transport.md R141. Same standing as `profStd` (log 15); R147 warns that `tRS` need not
match a device. -/
def profOd : Profile where
  tW1L := 1
  tW1H := 10
  tW0L := 10
  tW0H := 1
  tRL := 1
  tRS := 9
  tRR := 1
  tRSTL := 70
  tRSTH := 2
  nPDL := 20
  nPDH := 20
  tPOLL := 1

/-- The configuration record `Cfg` of 00_scope.md R6. CAPS, which is per instance, stands in the state. -/
structure Cfg where
  profStd : Profile
  profOd : Profile
  /-- bytes of device data memory the public read and write reach -/
  memSize : Nat
  /-- scratchpad and page size in bytes -/
  page : Nat
  configAddr : Half
  configLen : Nat
  crcPoly : Half
  crcInit : Half
  crcResidue : Half
  /-- expected E/S byte, and the copy authorization byte -/
  esExpect : Byte
  copyOk : Byte
  trailOk : Byte
  copyDelayMs : Nat
  maxSearch : Nat
  searchStackMax : Nat
  romLen : Nat
  cmdSkipRom : Byte
  cmdOdSkipRom : Byte
  cmdMatchRom : Byte
  cmdOdMatchRom : Byte
  cmdResume : Byte
  cmdSearchRom : Byte
  cmdWriteScratchpad : Byte
  cmdReadScratchpad : Byte
  cmdCopyScratchpad : Byte
  cmdReadMemory : Byte
deriving DecidableEq, Repr

/-- This hardware's values: the defaults of 00_scope.md R6 and 30_encoding.md R108. The command bytes and the CRC
initial value are general knowledge in the spec (PRESUMED, log 14 and log 16). -/
def cfg : Cfg where
  profStd := Sys2Proof.profStd
  profOd := Sys2Proof.profOd
  memSize := 128
  page := 8
  configAddr := 0x0080
  configLen := 8
  crcPoly := 0xA001
  crcInit := 0x0000
  crcResidue := 0xB001
  esExpect := 0x07
  copyOk := 0xAA
  trailOk := 0xFF
  copyDelayMs := 10
  maxSearch := 64
  searchStackMax := 64
  romLen := 8
  cmdSkipRom := 0xCC
  cmdOdSkipRom := 0x3C
  cmdMatchRom := 0x55
  cmdOdMatchRom := 0x69
  cmdResume := 0xA5
  cmdSearchRom := 0xF0
  cmdWriteScratchpad := 0x0F
  cmdReadScratchpad := 0xAA
  cmdCopyScratchpad := 0x55
  cmdReadMemory := 0xF0

/-- The record of delays a profile names (40_bit_transport.md R142: the caller names the variant). -/
def Prof.timing : Prof → Profile
  | .std => cfg.profStd
  | .od => cfg.profOd

/-- A port event, 00_scope.md R11. Nothing else is observable on the ports; debug print is no event (R4 (b), log 21). -/
inductive PortEvent where
  /-- `BusInit()` -/
  | busInit
  /-- `BusDeinit()` -/
  | busDeinit
  /-- `BusWrite(b)`: `false` drives the line low, `true` releases it (10_state.md R46) -/
  | w (b : Bool)
  /-- `BusRead()` -/
  | r
  /-- `DelayUs(n)` -/
  | dus (n : Nat)
  /-- `DelayMs(n)` -/
  | dms (n : Nat)
  /-- `IrqDisable()` -/
  | irqOff
  /-- `IrqEnable()` -/
  | irqOn
deriving DecidableEq, Repr

/-- What the environment answers to one capability call: a status (0 is success, any other value a failure,
93_implementation_defined.md I18) and a sample, which only `BusRead` uses (`false`: the line was low, 40_bit_transport.md R151). -/
structure Answer where
  status : Byte
  sample : Bool
deriving DecidableEq, Repr, Inhabited

/-- FREE VALUE (10_state.md R48, log 1): the environment's answer to the capability call that ends the given trace.
"Its answer may depend on the whole trace so far and is otherwise unconstrained." -/
opaque Config.envAnswer : List PortEvent → Answer

end Sys2Proof
end

