-- ==== Sys2Proof/Syntax.lean ====
section
/-! DEFINITION. The instructions: every row of spec/opcode_table.json, with the operands 30_encoding.md R102 and R103
give it, and where a row's byte may stand (30_encoding.md R109, R111). -/

namespace Sys2Proof

/-- Where an instruction's first byte stands, which decides what it means (30_encoding.md R109 and R111; log 3). -/
inductive Level where
  /-- a host request (R100): only the ids of R102 -/
  | host
  /-- the core's own sequencer (R103): only the micro-operation ids, which the host cannot issue -/
  | micro
  /-- the first byte after a reset, sent in the given profile: a ROM command (R105) -/
  | wireRom (p : Prof)
  /-- the first byte after the addressing sequence, in the function-phase profile: a function command (R107) -/
  | wireFunction (p : Prof)
deriving DecidableEq, Repr

/-- One constructor per row of spec/opcode_table.json, in the table's order. -/
inductive Instr where
  /-- INIT, 46_handle_control.md R331 -/
  | init
  /-- DEINIT, R332 -/
  | deinit
  /-- SET_MODE m, R333 -/
  | setMode (m : Byte)
  /-- GET_MODE, R334 -/
  | getMode
  /-- SET_ROM r, R335 -/
  | setRom (r : Bytes8)
  /-- GET_ROM, R336 -/
  | getRom
  /-- ROM_MATCH, 43_rom_addressing.md R220 -/
  | romMatch
  /-- READ addr, len, 45_memory_transactions.md R292 -/
  | read (addr len : Half)
  /-- WRITE addr, len, data, R295; `len` is the length of `data` (R106, log 22) -/
  | write (addr : Half) (data : List Byte)
  /-- READ_CONFIG, R297 -/
  | readConfig
  /-- WRITE_CONFIG cfg, R298 -/
  | writeConfig (block : Bytes8)
  /-- READ_SCRATCHPAD, R280 -/
  | readScratchpad
  /-- WRITE_SCRATCHPAD addr, data, R275 -/
  | writeScratchpad (addr : Half) (data : Bytes8)
  /-- COPY_SCRATCHPAD addr, R285 -/
  | copyScratchpad (addr : Half)
  /-- READ_MEMORY addr, len, R293 -/
  | readMemory (addr len : Half)
  /-- SEARCH_ROM n, 44_rom_search.md R240 -/
  | searchRom (n : Byte)
  /-- RESET_STD, 42_reset_presence.md R191 -/
  | resetStd
  /-- RESET_OD, R192 -/
  | resetOd
  /-- WBIT_STD b, 40_bit_transport.md R144 -/
  | wbitStd (b : Bool)
  /-- WBIT_OD b, R145 -/
  | wbitOd (b : Bool)
  /-- RBIT_STD, R146 -/
  | rbitStd
  /-- RBIT_OD, R147 -/
  | rbitOd
  /-- WBYTE_STD x, 41_byte_transport.md R171 -/
  | wbyteStd (x : Byte)
  /-- WBYTE_OD x, R172 -/
  | wbyteOd (x : Byte)
  /-- RBYTE_STD, R174 -/
  | rbyteStd
  /-- RBYTE_OD, R175 -/
  | rbyteOd
  /-- TRIPLET p, 44_rom_search.md R243; `p` is a position 1 to 64 -/
  | triplet (p : Byte)
  /-- ADDRESS, 43_rom_addressing.md R212 -/
  | address
  /-- PAGE_WRITE addr, data, 45_memory_transactions.md R290; `addr` a multiple of 8 -/
  | pageWrite (addr : Half) (data : Bytes8)
  /-- MEM_READ addr, len, R288 -/
  | memRead (addr len : Half)
  /-- SEARCH_ENGINE n, cmd, 44_rom_search.md R241 -/
  | searchEngine (n cmd : Byte)
  /-- CMD_SKIP_ROM, 30_encoding.md R108, sent in STD (R105) -/
  | cmdSkipRom
  /-- CMD_OD_SKIP_ROM, sent in STD (R105) -/
  | cmdOdSkipRom
  /-- CMD_MATCH_ROM, sent in STD (R105) -/
  | cmdMatchRom
  /-- CMD_OD_MATCH_ROM, sent in STD (R105) -/
  | cmdOdMatchRom
  /-- CMD_RESUME, sent in STD (mode 4) or in OD (mode 5) (R105) -/
  | cmdResume (p : Prof)
  /-- CMD_SEARCH_ROM, sent in STD (R107) -/
  | cmdSearchRom
  /-- CMD_WRITE_SCRATCHPAD, sent in the function-phase profile (R107) -/
  | cmdWriteScratchpad (p : Prof)
  /-- CMD_READ_SCRATCHPAD, sent in the function-phase profile (R107) -/
  | cmdReadScratchpad (p : Prof)
  /-- CMD_COPY_SCRATCHPAD, sent in the function-phase profile (R107) -/
  | cmdCopyScratchpad (p : Prof)
  /-- CMD_READ_MEMORY, sent in the function-phase profile (R107) -/
  | cmdReadMemory (p : Prof)
deriving DecidableEq, Repr

/-- The level at which an instruction's bytes stand. -/
def Instr.level : Instr → Level
  | .init | .deinit | .setMode _ | .getMode | .setRom _ | .getRom | .romMatch | .read _ _ | .write _ _
  | .readConfig | .writeConfig _ | .readScratchpad | .writeScratchpad _ _ | .copyScratchpad _
  | .readMemory _ _ | .searchRom _ => .host
  | .resetStd | .resetOd | .wbitStd _ | .wbitOd _ | .rbitStd | .rbitOd | .wbyteStd _ | .wbyteOd _
  | .rbyteStd | .rbyteOd | .triplet _ | .address | .pageWrite _ _ | .memRead _ _ | .searchEngine _ _ => .micro
  | .cmdSkipRom | .cmdOdSkipRom | .cmdMatchRom | .cmdOdMatchRom | .cmdSearchRom => .wireRom .std
  | .cmdResume p => .wireRom p
  | .cmdWriteScratchpad p | .cmdReadScratchpad p | .cmdCopyScratchpad p | .cmdReadMemory p => .wireFunction p

/-- Why bytes are not an instruction at the level they stand at (30_encoding.md R111). -/
inductive DecodeError where
  /-- no byte at all -/
  | empty
  /-- the first byte is no operation id, micro-operation id or command byte of that level -/
  | unknownId (id : Byte)
  /-- the operands end before the last byte the operation needs -/
  | truncated (id : Byte)
  /-- an operand holds a value outside its type or its stated range -/
  | badOperand (id : Byte)
  /-- bytes are left over after the last operand: among them a WRITE with more than `len` data bytes -/
  | trailing (id : Byte)
deriving DecidableEq, Repr

end Sys2Proof
end

