-- ==== Sys2Proof/WellFormed.lean ====
section
/-! DEFINITION. Which instructions are well formed: the operand bounds that the types of `Instr` do not carry
(30_encoding.md R103, R106, R111). -/

namespace Sys2Proof

/-- WRITE's `len` is a `UInt16` equal to the number of data bytes (30_encoding.md R102, R106). -/
def wfWriteLength (data : List Byte) : Bool := data.length < 65536

/-- TRIPLET's position is 1 to 64 (44_rom_search.md R243). -/
def wfPosition (p : Byte) : Bool := 1 ≤ p.toNat && p.toNat ≤ 64

/-- PAGE_WRITE's address is a multiple of 8 (45_memory_transactions.md R290). -/
def wfPageAddress (addr : Half) : Bool := addr.toNat % cfg.page == 0

/-- SEARCH_ENGINE's capacity is at most `MAX_SEARCH` (44_rom_search.md R241); 0 is the case of R249. -/
def wfCapacity (n : Byte) : Bool := n.toNat ≤ cfg.maxSearch

/-- The well-formed instructions: those whose words are a request, a micro-operation or a command byte of the core. -/
def Instr.wf : Instr → Bool
  | .write _ data => wfWriteLength data
  | .triplet p => wfPosition p
  | .pageWrite addr _ => wfPageAddress addr
  | .searchEngine n _ => wfCapacity n
  | .init | .deinit | .setMode _ | .getMode | .setRom _ | .getRom | .romMatch | .read _ _
  | .readConfig | .writeConfig _ | .readScratchpad | .writeScratchpad _ _ | .copyScratchpad _
  | .readMemory _ _ | .searchRom _ => true
  | .resetStd | .resetOd | .wbitStd _ | .wbitOd _ | .rbitStd | .rbitOd | .wbyteStd _ | .wbyteOd _
  | .rbyteStd | .rbyteOd | .address | .memRead _ _ => true
  | .cmdSkipRom | .cmdOdSkipRom | .cmdMatchRom | .cmdOdMatchRom | .cmdResume _ | .cmdSearchRom
  | .cmdWriteScratchpad _ | .cmdReadScratchpad _ | .cmdCopyScratchpad _ | .cmdReadMemory _ => true

end Sys2Proof
end

