-- ==== Sys2Proof/Decode.lean ====
section
/-! DEFINITION. Decoding, total on any bytes and rejecting by name (30_encoding.md R100, R102, R103, R108, R109, R111),
and the encoder written from the same tables. -/

namespace Sys2Proof

/-! ## 16-bit values as bytes -/

/-- `lo(a) = a[7:0]`, 00_scope.md R15. -/
def lo8 (a : Half) : Byte := a.setWidth 8

/-- `hi(a) = a[15:8]`, 00_scope.md R15. -/
def hi8 (a : Half) : Byte := (a >>> 8).setWidth 8

/-- `zext_16(b0) | (zext_16(b1) << 8)`: a 16-bit value from its bytes, low byte first (20_memory.md R72). -/
def half (b0 b1 : Byte) : Half := b0.setWidth 16 ||| (b1.setWidth 16 <<< 8)

/-- The bytes of an 8-byte block, element 0 first (20_memory.md R73). -/
def Bytes8.toList (v : Bytes8) : List Byte := [v.b0, v.b1, v.b2, v.b3, v.b4, v.b5, v.b6, v.b7]

/-- The 8-byte block whose elements are the first eight of a list; an element past the end of the list is 0. -/
def Bytes8.ofList (l : List Byte) : Bytes8 where
  b0 := l.getD 0 0
  b1 := l.getD 1 0
  b2 := l.getD 2 0
  b3 := l.getD 3 0
  b4 := l.getD 4 0
  b5 := l.getD 5 0
  b6 := l.getD 6 0
  b7 := l.getD 7 0

/-! ## Operands -/

/-- The first eight bytes as a block, and the rest. -/
def take8 : List Byte → Option (Bytes8 × List Byte)
  | b0 :: b1 :: b2 :: b3 :: b4 :: b5 :: b6 :: b7 :: rest => some (⟨b0, b1, b2, b3, b4, b5, b6, b7⟩, rest)
  | _ => none

/-- The first two bytes as a 16-bit value, low byte first (30_encoding.md R106), and the rest. -/
def takeHalf : List Byte → Option (Half × List Byte)
  | b0 :: b1 :: rest => some (half b0 b1, rest)
  | _ => none

/-- A bit operand: one byte, 0 or 1 (log 4). -/
def bitOfByte (x : Byte) : Option Bool :=
  if x = 0 then some false else if x = 1 then some true else none

/-- The byte of a bit operand (log 4). -/
def byteOfBit (b : Bool) : Byte := if b then 1 else 0

/-- An instruction and the bytes after it, or the reason there is none. -/
abbrev Decoded := Except DecodeError (Instr × List Byte)

/-- An instruction whose operands are an 8-byte block. -/
def with8 (id : Byte) (rest : List Byte) (f : Bytes8 → Instr) : Decoded :=
  match take8 rest with
  | some (v, rest) => .ok (f v, rest)
  | none => .error (.truncated id)

/-- An instruction whose operands begin with a 16-bit value. -/
def withHalf (id : Byte) (rest : List Byte) (f : Half → List Byte → Decoded) : Decoded :=
  match takeHalf rest with
  | some (a, rest) => f a rest
  | none => .error (.truncated id)

/-- An instruction whose operands begin with a byte. -/
def withByte (id : Byte) (rest : List Byte) (f : Byte → List Byte → Decoded) : Decoded :=
  match rest with
  | x :: rest => f x rest
  | [] => .error (.truncated id)

/-- WRITE's data: exactly `len` bytes (30_encoding.md R106). -/
def writeData (id : Byte) (addr len : Half) (rest : List Byte) : Decoded :=
  if rest.length < len.toNat then .error (.truncated id)
  else .ok (.write addr (rest.take len.toNat), rest.drop len.toNat)

/-- A well-formed instruction passes; another is refused for its operand. -/
def checked (id : Byte) (i : Instr) (rest : List Byte) : Decoded :=
  if i.wf then .ok (i, rest) else .error (.badOperand id)

/-! ## The decoder -/

/-- The host operations, 30_encoding.md R102; every other id is refused (R111). -/
def decodeHost (id : Byte) (rest : List Byte) : Decoded :=
  match id.toNat with
  | 0x01 => .ok (.init, rest)
  | 0x02 => .ok (.deinit, rest)
  | 0x03 => withByte id rest fun m rest => .ok (.setMode m, rest)
  | 0x04 => .ok (.getMode, rest)
  | 0x05 => with8 id rest .setRom
  | 0x06 => .ok (.getRom, rest)
  | 0x07 => .ok (.romMatch, rest)
  | 0x08 => withHalf id rest fun a rest => withHalf id rest fun n rest => .ok (.read a n, rest)
  | 0x09 => withHalf id rest fun a rest => withHalf id rest fun n rest => writeData id a n rest
  | 0x0A => .ok (.readConfig, rest)
  | 0x0B => with8 id rest .writeConfig
  | 0x0C => .ok (.readScratchpad, rest)
  | 0x0D => withHalf id rest fun a rest => with8 id rest (.writeScratchpad a)
  | 0x0E => withHalf id rest fun a rest => .ok (.copyScratchpad a, rest)
  | 0x0F => withHalf id rest fun a rest => withHalf id rest fun n rest => .ok (.readMemory a n, rest)
  | 0x10 => withByte id rest fun n rest => .ok (.searchRom n, rest)
  | _ => .error (.unknownId id)

/-- The micro-operations, 30_encoding.md R103. The spec gives their operands but no bytes; the model writes them as
R100 writes a request's, a bit as one byte 0 or 1 and TRIPLET's position as the ROM bit index p - 1 (log 4). -/
def decodeMicro (id : Byte) (rest : List Byte) : Decoded :=
  match id.toNat with
  | 0x20 => .ok (.resetStd, rest)
  | 0x21 => .ok (.resetOd, rest)
  | 0x22 => withByte id rest fun x rest =>
      match bitOfByte x with
      | some b => .ok (.wbitStd b, rest)
      | none => .error (.badOperand id)
  | 0x23 => withByte id rest fun x rest =>
      match bitOfByte x with
      | some b => .ok (.wbitOd b, rest)
      | none => .error (.badOperand id)
  | 0x24 => .ok (.rbitStd, rest)
  | 0x25 => .ok (.rbitOd, rest)
  | 0x26 => withByte id rest fun x rest => .ok (.wbyteStd x, rest)
  | 0x27 => withByte id rest fun x rest => .ok (.wbyteOd x, rest)
  | 0x28 => .ok (.rbyteStd, rest)
  | 0x29 => .ok (.rbyteOd, rest)
  | 0x2A => withByte id rest fun x rest => checked id (.triplet (x + 1)) rest
  | 0x2B => .ok (.address, rest)
  | 0x2C => withHalf id rest fun a rest =>
      match take8 rest with
      | some (v, rest) => checked id (.pageWrite a v) rest
      | none => .error (.truncated id)
  | 0x2D => withHalf id rest fun a rest => withHalf id rest fun n rest => .ok (.memRead a n, rest)
  | 0x2E => withByte id rest fun n rest => withByte id rest fun c rest => checked id (.searchEngine n c) rest
  | _ => .error (.unknownId id)

/-- The ROM command bytes, 30_encoding.md R108, each in the profile R105 and R107 send it in. -/
def decodeWireRom (p : Prof) (id : Byte) (rest : List Byte) : Decoded :=
  if id = cfg.cmdResume then .ok (.cmdResume p, rest)
  else if p = .od then .error (.unknownId id)
  else if id = cfg.cmdSkipRom then .ok (.cmdSkipRom, rest)
  else if id = cfg.cmdOdSkipRom then .ok (.cmdOdSkipRom, rest)
  else if id = cfg.cmdMatchRom then .ok (.cmdMatchRom, rest)
  else if id = cfg.cmdOdMatchRom then .ok (.cmdOdMatchRom, rest)
  else if id = cfg.cmdSearchRom then .ok (.cmdSearchRom, rest)
  else .error (.unknownId id)

/-- The function command bytes, 30_encoding.md R108. -/
def decodeWireFunction (p : Prof) (id : Byte) (rest : List Byte) : Decoded :=
  if id = cfg.cmdWriteScratchpad then .ok (.cmdWriteScratchpad p, rest)
  else if id = cfg.cmdReadScratchpad then .ok (.cmdReadScratchpad p, rest)
  else if id = cfg.cmdCopyScratchpad then .ok (.cmdCopyScratchpad p, rest)
  else if id = cfg.cmdReadMemory then .ok (.cmdReadMemory p, rest)
  else .error (.unknownId id)

/-- The first instruction of a list of bytes standing at a level, and the bytes after it. -/
def decodeFirst (level : Level) : List Byte → Decoded
  | [] => .error .empty
  | id :: rest =>
    match level with
    | .host => decodeHost id rest
    | .micro => decodeMicro id rest
    | .wireRom p => decodeWireRom p id rest
    | .wireFunction p => decodeWireFunction p id rest

/-- The instruction whose bytes are exactly the given ones: no byte is left over (30_encoding.md R106, R111). -/
def decode (level : Level) (bytes : List Byte) : Except DecodeError Instr :=
  match decodeFirst level bytes with
  | .error e => .error e
  | .ok (i, []) => .ok i
  | .ok (_, _ :: _) => .error (.trailing (bytes.headD 0))

/-! ## The encoder -/

/-- A 16-bit operand, low byte first (30_encoding.md R106). -/
def encodeHalf (a : Half) : List Byte := [lo8 a, hi8 a]

/-- The first byte of an instruction: the id of R102 or R103, or the command byte of R108. -/
def Instr.opByte : Instr → Byte
  | .init => 0x01
  | .deinit => 0x02
  | .setMode _ => 0x03
  | .getMode => 0x04
  | .setRom _ => 0x05
  | .getRom => 0x06
  | .romMatch => 0x07
  | .read _ _ => 0x08
  | .write _ _ => 0x09
  | .readConfig => 0x0A
  | .writeConfig _ => 0x0B
  | .readScratchpad => 0x0C
  | .writeScratchpad _ _ => 0x0D
  | .copyScratchpad _ => 0x0E
  | .readMemory _ _ => 0x0F
  | .searchRom _ => 0x10
  | .resetStd => 0x20
  | .resetOd => 0x21
  | .wbitStd _ => 0x22
  | .wbitOd _ => 0x23
  | .rbitStd => 0x24
  | .rbitOd => 0x25
  | .wbyteStd _ => 0x26
  | .wbyteOd _ => 0x27
  | .rbyteStd => 0x28
  | .rbyteOd => 0x29
  | .triplet _ => 0x2A
  | .address => 0x2B
  | .pageWrite _ _ => 0x2C
  | .memRead _ _ => 0x2D
  | .searchEngine _ _ => 0x2E
  | .cmdSkipRom => cfg.cmdSkipRom
  | .cmdOdSkipRom => cfg.cmdOdSkipRom
  | .cmdMatchRom => cfg.cmdMatchRom
  | .cmdOdMatchRom => cfg.cmdOdMatchRom
  | .cmdResume _ => cfg.cmdResume
  | .cmdSearchRom => cfg.cmdSearchRom
  | .cmdWriteScratchpad _ => cfg.cmdWriteScratchpad
  | .cmdReadScratchpad _ => cfg.cmdReadScratchpad
  | .cmdCopyScratchpad _ => cfg.cmdCopyScratchpad
  | .cmdReadMemory _ => cfg.cmdReadMemory

/-- The operand bytes of an instruction, in the order of R102 and R103. -/
def Instr.operandBytes : Instr → List Byte
  | .setMode m => [m]
  | .setRom r => r.toList
  | .read addr len => encodeHalf addr ++ encodeHalf len
  | .write addr data => encodeHalf addr ++ encodeHalf (BitVec.ofNat 16 data.length) ++ data
  | .writeConfig block => block.toList
  | .writeScratchpad addr data => encodeHalf addr ++ data.toList
  | .copyScratchpad addr => encodeHalf addr
  | .readMemory addr len => encodeHalf addr ++ encodeHalf len
  | .searchRom n => [n]
  | .wbitStd b => [byteOfBit b]
  | .wbitOd b => [byteOfBit b]
  | .wbyteStd x => [x]
  | .wbyteOd x => [x]
  | .triplet p => [p - 1]
  | .pageWrite addr data => encodeHalf addr ++ data.toList
  | .memRead addr len => encodeHalf addr ++ encodeHalf len
  | .searchEngine n cmd => [n, cmd]
  | .init | .deinit | .getMode | .getRom | .romMatch | .readConfig | .readScratchpad => []
  | .resetStd | .resetOd | .rbitStd | .rbitOd | .rbyteStd | .rbyteOd | .address => []
  | .cmdSkipRom | .cmdOdSkipRom | .cmdMatchRom | .cmdOdMatchRom | .cmdResume _ | .cmdSearchRom => []
  | .cmdWriteScratchpad _ | .cmdReadScratchpad _ | .cmdCopyScratchpad _ | .cmdReadMemory _ => []

/-- The bytes of an instruction: the op byte followed by its operands (30_encoding.md R100). -/
def encode (i : Instr) : List Byte := i.opByte :: i.operandBytes

/-! ## Programs and opcode-table words -/

/-- The host requests of a byte stream (95_test_vectors.md part 3 writes programs so), at most `fuel` of them. -/
def decodeStream : Nat → List Byte → Except DecodeError (List Instr)
  | _, [] => .ok []
  | 0, id :: _ => .error (.trailing id)
  | fuel + 1, bytes =>
    match decodeFirst .host bytes with
    | .error e => .error e
    | .ok (i, rest) =>
      match decodeStream fuel rest with
      | .error e => .error e
      | .ok is => .ok (i :: is)

/-- The bytes of a number, least significant first. -/
def bytesOfNat : Nat → Nat → List Byte
  | 0, _ => []
  | n + 1, w => BitVec.ofNat 8 w :: bytesOfNat n (w / 256)

/-- The longest operand list a table row has beside its op byte, WRITE's data apart: zeros stand for what the table
gives no bits. -/
def operandPad : List Byte := List.replicate 10 0

/-- The bytes of an opcode-table word: the table's bytes, the first one least significant, then operand bytes of zeros. -/
def tableBytes (nbits w : Nat) : List Byte := bytesOfNat (nbits / 8) w ++ operandPad

/-- The level at which an opcode-table byte is read when nothing else says where it stands: the level of the first
table row that has it (log 3). -/
def tableLevel (id : Byte) : Level :=
  if 0x01 ≤ id.toNat ∧ id.toNat ≤ 0x10 then .host
  else if 0x20 ≤ id.toNat ∧ id.toNat ≤ 0x2E then .micro
  else if id = cfg.cmdReadScratchpad then .wireFunction .std
  else .wireRom .std

/-- The instruction the decoder reads from an opcode-table word (operand bytes of zeros). -/
def decodeTableWord (nbits w : Nat) : Option Instr :=
  let bytes := tableBytes nbits w
  match decodeFirst (tableLevel (bytes.headD 0)) bytes with
  | .ok (i, _) => some i
  | .error _ => none

end Sys2Proof
end

