-- ==== Sys2Proof/Machine/State.lean ====
section
/-! DEFINITION. The state of the core (10_state.md), its requests, responses and causes (30_encoding.md R100, R101,
60_exceptions.md R360), the reasons a step can stop, and the state after reset (10_state.md R52). -/

namespace Sys2Proof.Machine

/-- The cause of a response, 60_exceptions.md R360. -/
inductive Cause where
  | ok
  | nullHandle
  | notInit
  | missingCap
  | argRange
  | argAlign
  | modeInvalid
  | transport
  | busInitFail
  | busDeinitFail
  | noPresence
  | crc
  | statusByte
  | response
deriving DecidableEq, Repr

/-- The outputs of a host operation, 30_encoding.md R102. -/
inductive Output where
  /-- no output: the operation has none, or the status is not 0 (R101) -/
  | none
  /-- GET_MODE -/
  | mode (m : Byte)
  /-- GET_ROM -/
  | rom (r : Bytes8)
  /-- READ, READ_MEMORY -/
  | data (bytes : List Byte)
  /-- READ_CONFIG -/
  | config (block : Bytes8)
  /-- READ_SCRATCHPAD -/
  | scratchpad (addr : Half) (data : Bytes8)
  /-- SEARCH_ROM -/
  | search (count : Byte) (roms : List Bytes8)
deriving DecidableEq, Repr

/-- A response, 30_encoding.md R101. -/
structure Response where
  status : Byte
  cause : Cause
  outputs : Output
deriving DecidableEq, Repr

/-- The value a micro-operation returns with OK, 30_encoding.md R103. -/
inductive MicroValue where
  | unit
  | bit (b : Bool)
  | byte (x : Byte)
  | profile (p : Prof)
  | bytes (bs : List Byte)
  | roms (rs : List Bytes8)
deriving DecidableEq, Repr

/-- The result of a micro-operation run by itself: OK, NONE (TRIPLET only) or ERR, 00_scope.md R12. -/
inductive MicroResult where
  | ok (v : MicroValue)
  | none
  | err (c : Cause)
deriving DecidableEq, Repr

/-- What the machine answers to one instruction: a host operation's response, or a micro-operation's or wire command's
result (log 10). -/
inductive Reply where
  | host (r : Response)
  | micro (r : MicroResult)
deriving DecidableEq, Repr

/-- The handle reference `h` of a request, 30_encoding.md R100. -/
inductive Handle where
  | core
  | null
deriving DecidableEq, Repr

/-- A request as the host places it: its handle, the level its bytes stand at (log 3), and its bytes (R100). -/
structure Request where
  handle : Handle
  level : Level
  bytes : List Byte
deriving DecidableEq, Repr

/-- `CAPS`, 10_state.md R39: for each capability, whether it is connected. -/
structure Caps where
  busInit : Bool
  busDeinit : Bool
  busRead : Bool
  busWrite : Bool
  delayMs : Bool
  delayUs : Bool
  enableIrq : Bool
  disableIrq : Bool
  debugPrint : Bool
deriving DecidableEq, Repr

/-- The scratchpad transaction, 10_state.md R43. `data` grows while READ_SCRATCHPAD reads it. R43 does not say which bytes the
readback bytes are: `readback` holds every byte the transaction reads except READ_SCRATCHPAD's eight data bytes, in order, so
the two CRC bytes, the status bytes and READ_SCRATCHPAD's header bytes t0, t1 and E/S (DESIGN CHOICE, log 29). Where an
operation has no address or no data yet, or none at all (COPY_SCRATCHPAD has no data operand), R43 does not say what TA and DATA
hold: the model holds 0 and no bytes (DESIGN CHOICE, log 28). -/
structure ScratchTx where
  ta : Half
  data : List Byte
  crc : Half
  readback : List Byte
deriving DecidableEq, Repr

/-- The search state, 10_state.md R44. The top of `stk` is its last element (44_rom_search.md R241). -/
structure Search where
  stk : List Nat
  prev : Bytes8
  cand : Bytes8
  found : List Bytes8
deriving DecidableEq, Repr

/-- The chunk cursor of a page-splitting write, 10_state.md R45 and 45_memory_transactions.md R295. -/
structure Cursor where
  a : Nat
  off : Nat
  rem : Nat
deriving DecidableEq, Repr

/-- The two registers the spec gives no value until they are written, 60_exceptions.md R376. -/
inductive Register where
  | mode
  | rom
deriving DecidableEq, Repr

/-- Why the machine runs no later request (log 6, log 7). -/
inductive Halt where
  /-- the recorded fault `UNWRITTEN_READ(reg)`, 60_exceptions.md R376 -/
  | unwrittenRead (reg : Register)
  /-- the refusal mark of a push beyond `SEARCH_STACK_MAX`, 44_rom_search.md R246 -/
  | searchStackFull
deriving DecidableEq, Repr

/-- The faults of a step. -/
inductive Fault where
  /-- `UNWRITTEN_READ(reg)`, 60_exceptions.md R376 ("A request whose pseudocode reads either of them while it is unwritten
  stops at that read", "no later request runs"): answered by `step` in a state in which a request has recorded it, which only
  a core with `unwrittenFaults` set does. Safe: the spec's machine runs no later request either. -/
  | unwrittenRead (reg : Register)
deriving DecidableEq, Repr

/-- The refusals of a step. -/
inductive Refusal where
  /-- answered by an arm of `exec` whose instruction has no meaning yet. Safe. -/
  | notModelled (mnemonic : String)
  /-- answered by `step` for bytes that are no request of the core, 30_encoding.md R111 and 60_exceptions.md R377. Safe. -/
  | illegalRequest (why : DecodeError)
  /-- answered by `step` in a state that carries the mark of a push beyond `SEARCH_STACK_MAX`, 44_rom_search.md R246.
  Safe: the spec asks for the refusal. -/
  | searchStackFull
deriving DecidableEq, Repr

/-- The state of the core, plain data. -/
structure State where
  /-- INITED, 10_state.md R33 -/
  inited : Bool
  /-- MODE, R34 -/
  mode : Byte
  /-- whether MODE has been written: `false` is the spec's "unwritten" (R34, R52) -/
  modeWritten : Bool
  /-- ROM, R36 -/
  rom : Bytes8
  /-- whether ROM has been written (R36, R52) -/
  romWritten : Bool
  /-- whether a read of MODE or ROM before its first write is the fault of 60_exceptions.md R376; where it is not, the
  register reads as the value it holds (DESIGN CHOICE, log 5, log 6) -/
  unwrittenFaults : Bool
  /-- CAPS, R39 -/
  caps : Caps
  /-- CS, R41 -/
  cs : Bool
  /-- LINE, R42: the last value a `BusWrite` wrote with status 0 (`some false` low, `some true` released), or none -/
  line : Option Bool
  /-- the scratchpad transaction, absent outside one (R43) -/
  tx : Option ScratchTx
  /-- the search state, absent outside a search (R44) -/
  search : Option Search
  /-- the byte shift register, absent outside a byte read (R45) -/
  acc : Option Byte
  /-- the poll counter, absent outside a reset phase (R45) -/
  polls : Option Nat
  /-- the chunk cursor, absent outside a WRITE (R45) -/
  cursor : Option Cursor
  /-- the requests the host has placed, oldest first (log 2) -/
  inbox : List Request
  /-- the handle reference of the request being run (30_encoding.md R100, log 9) -/
  handle : Handle
  /-- the environment's next answers, where they are scripted (log 1) -/
  env : List Answer
  /-- the port events emitted since reset, in order (R47) -/
  trace : List PortEvent
  /-- what has been answered since reset, in order (70_reset_and_hazards.md R404) -/
  replies : List Reply
  /-- the recorded fault or refusal mark (60_exceptions.md R376, R377) -/
  halt : Option Halt
deriving DecidableEq, Repr

/-- All nine capabilities connected. -/
def Caps.all : Caps := ⟨true, true, true, true, true, true, true, true, true⟩

/-- The machine right after reset, 10_state.md R52 and 70_reset_and_hazards.md R400. MODE and ROM are unwritten and hold 0,
and a read of them before their first write reads that 0 (DESIGN CHOICE, log 5); all capabilities are connected
(DESIGN CHOICE, log 8). -/
def State.reset : State where
  inited := false
  mode := 0
  modeWritten := false
  rom := Bytes8.zero
  romWritten := false
  unwrittenFaults := false
  caps := Caps.all
  cs := false
  line := none
  tx := none
  search := none
  acc := none
  polls := none
  cursor := none
  inbox := []
  handle := .core
  env := []
  trace := []
  replies := []
  halt := none

end Sys2Proof.Machine
end

