-- ==== Sys2Proof/Machine/Ops.lean ====
section
/-! DEFINITION. The shared operations: sequences (00_scope.md R12), port primitives (R11), critical sections (R13), register
access with the fault of 60_exceptions.md R376, transient state (10_state.md R43 to R45), and how a request ends. -/

namespace Sys2Proof.Machine

/-! ## Sequences -/

/-- How a sequence ends early: with `ERR(cause)`, or at a recorded fault or refusal, after which nothing runs. -/
inductive Stop where
  | err (c : Cause)
  | halt (h : Halt)
deriving DecidableEq, Repr

/-- An internal sequence (00_scope.md R12): it changes the state and ends with a value or early; the state it had when it
ended early is kept, as the events emitted before an error are. `x ← S` in it is the spec's `try S`. -/
abbrev Proc (α : Type) := ExceptT Stop (StateM State) α

/-- What a sequence ends with, and the state it leaves. -/
def Proc.run {α : Type} (m : Proc α) (s : State) : Except Stop α × State := m s

/-- A sequence given by what it does to a state. -/
def Proc.of {α : Type} (f : State → Except Stop α × State) : Proc α := f

/-- A sequence that cannot end early. -/
def Proc.update (f : State → State) : Proc Unit := Proc.of fun s => (.ok (), f s)

/-- A value read from the state. -/
def Proc.look {α : Type} (f : State → α) : Proc α := Proc.of fun s => (.ok (f s), s)

/-- `return ERR(c)`. -/
def Proc.fail {α : Type} (c : Cause) : Proc α := Proc.of fun s => (.error (.err c), s)

/-- The sequence stops for good: a model fault is recorded, or the refusal mark set. -/
def Proc.stop {α : Type} (h : Halt) : Proc α := Proc.of fun s => (.error (.halt h), s)

/-- Fail with `c` unless `ok`. -/
def require (ok : Bool) (c : Cause) : Proc Unit := if ok then pure () else Proc.fail c

/-- Run `body`, then `fin` on every exit of it (00_scope.md R13, "guaranteed-release semantics even on early error returns"). -/
def Proc.ensuring {α : Type} (body : Proc α) (fin : State → State) : Proc α :=
  Proc.of fun s =>
    match Proc.run body s with
    | (r, s') => (r, fin s')

/-! ## Port primitives -/

/-- Append a port event to the trace (00_scope.md R11). -/
def State.emit (s : State) (e : PortEvent) : State := { s with trace := s.trace ++ [e] }

/-- The environment's answer to the call just emitted (10_state.md R48, log 1): the next scripted one, else the free value. -/
def State.answer (s : State) : Answer :=
  match s.env with
  | a :: _ => a
  | [] => Config.envAnswer s.trace

/-- The scripted answer is used up. -/
def State.answered (s : State) : State := { s with env := s.env.tail }

/-- The state after a capability call: its event emitted, one scripted answer used up. -/
def State.called (s : State) (e : PortEvent) : State := (s.emit e).answered

/-- Emit a capability call and draw the environment's answer to it. -/
def call (e : PortEvent) : Proc Answer := Proc.of fun s => (.ok (s.emit e).answer, s.called e)

/-- A capability call that fails with `c` on any status but 0 (00_scope.md R11). -/
def callOr (e : PortEvent) (c : Cause) : Proc Answer := do
  let a ← call e
  require (a.status == 0) c
  pure a

/-- `LINE` latches the value of a successful `BusWrite` (10_state.md R42). -/
def setLine (b : Bool) : Proc Unit := Proc.update fun s => { s with line := some b }

/-- `BusInit()`, failing with BUS_INIT_FAIL (60_exceptions.md R360). -/
def busInit : Proc Unit := do
  let _ ← callOr .busInit .busInitFail

/-- `BusDeinit()`, failing with BUS_DEINIT_FAIL. -/
def busDeinit : Proc Unit := do
  let _ ← callOr .busDeinit .busDeinitFail

/-- `BusWrite(b)`, failing with TRANSPORT; a failure leaves LINE at its previous value (10_state.md R42). -/
def busWrite (b : Bool) : Proc Unit := do
  let _ ← callOr (.w b) .transport
  setLine b

/-- `BusRead()`: the sample, or TRANSPORT; the sample of a failed read is discarded (40_bit_transport.md R146). -/
def busRead : Proc Bool := do
  let a ← callOr .r .transport
  pure a.sample

/-- `DelayUs(n)`. -/
def delayUs (n : Nat) : Proc Unit := Proc.update fun s => s.emit (.dus n)

/-- `DelayMs(n)`. -/
def delayMs (n : Nat) : Proc Unit := Proc.update fun s => s.emit (.dms n)

/-- `IrqDisable()`: it sets CS (10_state.md R41). -/
def State.irqOff (s : State) : State := { s.emit .irqOff with cs := true }

/-- `IrqEnable()`: it clears CS (10_state.md R41). -/
def State.irqOn (s : State) : State := { s.emit .irqOn with cs := false }

/-- `critical { body }`, 00_scope.md R13. -/
def critical {α : Type} (body : Proc α) : Proc α := do
  Proc.update State.irqOff
  body.ensuring State.irqOn

/-! ## Registers -/

/-- MODE can be read: it has been written, or a read before its first write reads the value it holds (log 5). -/
def State.modeReadable (s : State) : Bool := s.modeWritten || !s.unwrittenFaults

/-- ROM can be read: it has been written, or a read before its first write reads the value it holds (log 5). -/
def State.romReadable (s : State) : Bool := s.romWritten || !s.unwrittenFaults

/-- A read of MODE: the value it holds; or, while it is unwritten on a core on which that faults, the fault of
60_exceptions.md R376. -/
def readMode : Proc Byte := do
  let readable ← Proc.look State.modeReadable
  if readable then Proc.look State.mode else Proc.stop (.unwrittenRead .mode)

/-- A read of ROM: the value it holds; or, while it is unwritten on a core on which that faults, the fault of
60_exceptions.md R376. -/
def readRom : Proc Bytes8 := do
  let readable ← Proc.look State.romReadable
  if readable then Proc.look State.rom else Proc.stop (.unwrittenRead .rom)

/-- `MODE <- m`, 46_handle_control.md R333. -/
def writeMode (m : Byte) : Proc Unit := Proc.update fun s => { s with mode := m, modeWritten := true }

/-- `ROM[i] <- r[i]` for i in 0..7, 46_handle_control.md R335. -/
def writeRom (r : Bytes8) : Proc Unit := Proc.update fun s => { s with rom := r, romWritten := true }

/-- `INITED <- v`. -/
def writeInited (v : Bool) : Proc Unit := Proc.update fun s => { s with inited := v }

/-- Whether every capability is connected (46_handle_control.md R331). -/
def Caps.connected (c : Caps) : Bool :=
  c.busInit && c.busDeinit && c.busRead && c.busWrite && c.delayMs && c.delayUs && c.enableIrq && c.disableIrq
    && c.debugPrint

/-! ## Transient state -/

/-- The shift register exists while `body` runs, initially 0 (41_byte_transport.md R173). -/
def withAcc {α : Type} (body : Proc α) : Proc α := do
  Proc.update fun s => { s with acc := some 0 }
  body.ensuring fun s => { s with acc := none }

/-- The contents of the shift register. -/
def State.accValue (s : State) : Byte := s.acc.getD 0

/-- A poll counter exists while `body` runs, initially 0 (42_reset_presence.md R190). -/
def withPolls {α : Type} (body : Proc α) : Proc α := do
  Proc.update fun s => { s with polls := some 0 }
  body.ensuring fun s => { s with polls := none }

/-- The number of polls taken in this phase. -/
def State.pollCount (s : State) : Nat := s.polls.getD 0

/-- A scratchpad transaction exists while `body` runs (10_state.md R43). -/
def withTx {α : Type} (ta : Half) (data : List Byte) (body : Proc α) : Proc α := do
  Proc.update fun s => { s with tx := some { ta := ta, data := data, crc := cfg.crcInit, readback := [] } }
  body.ensuring fun s => { s with tx := none }

/-- The scratchpad transaction under way; outside one, an empty one. -/
def State.txValue (s : State) : ScratchTx := s.tx.getD { ta := 0, data := [], crc := cfg.crcInit, readback := [] }

/-- Change the scratchpad transaction under way. -/
def updateTx (f : ScratchTx → ScratchTx) : Proc Unit := Proc.update fun s => { s with tx := some (f s.txValue) }

/-- The search state a search begins with (44_rom_search.md R241). -/
def Search.start : Search := { stk := [], prev := Bytes8.zero, cand := Bytes8.zero, found := [] }

/-- Search state exists while `body` runs (10_state.md R44). -/
def withSearch {α : Type} (body : Proc α) : Proc α := do
  Proc.update fun s => { s with search := some Search.start }
  body.ensuring fun s => { s with search := none }

/-- The search state; where there is none, the one a search begins with (log 12). -/
def State.searchValue (s : State) : Search := s.search.getD Search.start

/-- Change the search state. -/
def updateSearch (f : Search → Search) : Proc Unit := Proc.update fun s => { s with search := some (f s.searchValue) }

/-- The chunk cursor exists while `body` runs (45_memory_transactions.md R295). -/
def withCursor {α : Type} (c : Cursor) (body : Proc α) : Proc α := do
  Proc.update fun s => { s with cursor := some c }
  body.ensuring fun s => { s with cursor := none }

/-- The chunk cursor. -/
def State.cursorValue (s : State) : Cursor := s.cursor.getD { a := 0, off := 0, rem := 0 }

/-- Move the chunk cursor over `k` bytes. -/
def advanceCursor (k : Nat) : Proc Unit :=
  Proc.update fun s =>
    { s with cursor := some { a := s.cursorValue.a + k, off := s.cursorValue.off + k, rem := s.cursorValue.rem - k } }

/-! ## How an instruction ends -/

/-- A reply is appended; nothing else changes. -/
def State.reply (s : State) (r : Reply) : State := { s with replies := s.replies ++ [r] }

/-- The fault of 60_exceptions.md R376 or the refusal mark of R377 is recorded: no response, no further event. This is the
one exceptional end the spec describes; there is no trap entry and no return from one (R371, R372). -/
def State.halted (s : State) (h : Halt) : State := { s with halt := some h }

/-- A host operation ends with its response (30_encoding.md R101): status 0, cause OK and the outputs, or the status its
table gives the cause (60_exceptions.md R361) and no outputs; or it is stopped for good (R376). -/
def hostEnd (status : Cause → Byte) (r : Except Stop Output × State) : State :=
  match r.1 with
  | .ok out => r.2.reply (.host { status := 0, cause := .ok, outputs := out })
  | .error (.err c) => r.2.reply (.host { status := status c, cause := c, outputs := .none })
  | .error (.halt h) => r.2.halted h

/-- Run a host operation's body to its response. -/
def runHost (status : Cause → Byte) (body : Proc Output) (s : State) : Host.Outcome State Fault Refusal :=
  .next (hostEnd status (Proc.run body s))

/-- A micro-operation run by itself ends with its result, 00_scope.md R12 (log 10). -/
def microEnd (r : Except Stop MicroResult × State) : State :=
  match r.1 with
  | .ok v => r.2.reply (.micro v)
  | .error (.err c) => r.2.reply (.micro (.err c))
  | .error (.halt h) => r.2.halted h

/-- Run a micro-operation's body to its result. -/
def runMicro (body : Proc MicroResult) (s : State) : Host.Outcome State Fault Refusal :=
  .next (microEnd (Proc.run body s))

/-- A micro-operation that returns OK without a value. -/
def microUnit (body : Proc Unit) (s : State) : Host.Outcome State Fault Refusal :=
  runMicro (do body; pure (.ok .unit)) s

end Sys2Proof.Machine
end

