-- ==== Sys2Proof/Machine/Flags.lean ====
section
/-! DEFINITION. The core has no status flags (10_state.md R32). What other hardware computes as flags is here the status
code of a response (60_exceptions.md R361) and the CRC-16 verification of a readback (45_memory_transactions.md R270 to R272). -/

namespace Sys2Proof.Machine

/-! ## CRC-16 -/

/-- One bit of the CRC-16 update (45_memory_transactions.md R270). -/
def crcStep (crc : Half) : Half := if crc.getLsbD 0 then (crc >>> 1) ^^^ cfg.crcPoly else crc >>> 1

/-- `n` bits of the CRC-16 update. -/
def crcSteps : Nat → Half → Half
  | 0, crc => crc
  | n + 1, crc => crcSteps n (crcStep crc)

/-- `CRC16_UPD(crc, x)`, R270. -/
def crcUpd (crc : Half) (x : Byte) : Half := crcSteps 8 (crc ^^^ x.setWidth 16)

/-- `CRC16(bs)` continued from an accumulator, element 0 first. -/
def crcFrom (crc : Half) (bs : List Byte) : Half := bs.foldl crcUpd crc

/-- `CRC16(bs)`, R271. -/
def crc16 (bs : List Byte) : Half := crcFrom cfg.crcInit bs

/-- A readback is accepted (R272). -/
def crcAccepts (crc : Half) : Bool := crc == cfg.crcResidue

/-! ## Status codes -/

/-- The host operations, as the rows of 60_exceptions.md R361 name them. -/
inductive HostOp where
  | init | deinit | setMode | getMode | setRom | getRom | romMatch | read | write | readConfig | writeConfig
  | readScratchpad | writeScratchpad | copyScratchpad | readMemory | searchRom
deriving DecidableEq, Repr

/-- The mode-invalid status M of an addressed operation (45_memory_transactions.md R273). -/
def HostOp.modeInvalidStatus : HostOp → Byte
  | .read | .readMemory | .write => 5
  | .readConfig | .writeConfig | .readScratchpad => 4
  | .writeScratchpad | .copyScratchpad => 6
  | .init | .deinit | .setMode | .getMode | .setRom | .getRom | .romMatch | .searchRom => 1

/-- The status a CRC failure gives: 5 or 6 where the operation has a code for it, else its failure status 1. -/
def HostOp.crcStatus : HostOp → Byte
  | .writeScratchpad => 5
  | .readScratchpad => 6
  | .write | .writeConfig | .read | .readMemory | .readConfig | .copyScratchpad | .init | .deinit | .setMode | .getMode
  | .setRom | .getRom | .romMatch | .searchRom => 1

/-- The status a wrong status byte gives. -/
def HostOp.statusByteStatus : HostOp → Byte
  | .writeScratchpad | .readScratchpad => 5
  | .write | .writeConfig | .read | .readMemory | .readConfig | .copyScratchpad | .init | .deinit | .setMode | .getMode
  | .setRom | .getRom | .romMatch | .searchRom => 1

/-- The status a wrong copy response gives. -/
def HostOp.responseStatus : HostOp → Byte
  | .copyScratchpad => 5
  | .write | .writeConfig | .read | .readMemory | .readConfig | .writeScratchpad | .readScratchpad | .init | .deinit
  | .setMode | .getMode | .setRom | .getRom | .romMatch | .searchRom => 1

/-- The status table of 60_exceptions.md R361, by operation and cause. Causes an operation cannot raise have no row in
R361; they get the failure status 1 and no response ever carries them. -/
def HostOp.status (op : HostOp) : Cause → Byte
  | .ok => 0
  | .nullHandle => 2
  | .notInit => 3
  | .missingCap => 3
  | .argRange => 4
  | .argAlign => 4
  | .modeInvalid => op.modeInvalidStatus
  | .transport => 1
  | .busInitFail => 1
  | .busDeinitFail => 1
  | .noPresence => 1
  | .crc => op.crcStatus
  | .statusByte => op.statusByteStatus
  | .response => op.responseStatus

/-! ## The checks before any bus activity, in the order of 60_exceptions.md R364 -/

/-- `if h == null then return (2, NULL_HANDLE)`, R362. -/
def checkHandle : Proc Unit := do
  let h ← Proc.look State.handle
  require (h == .core) .nullHandle

/-- `if INITED == 0 then return (3, NOT_INIT)`, R363. -/
def checkInit : Proc Unit := do
  let inited ← Proc.look State.inited
  require inited .notInit

/-- The null-handle and initialized checks of every host operation but INIT. -/
def checkHandleInit : Proc Unit := do
  checkHandle
  checkInit

/-- `if MODE > 5 then return (M, MODE_INVALID)`, 45_memory_transactions.md R273. -/
def checkMode : Proc Unit := do
  let m ← readMode
  require (m.toNat ≤ 5) .modeInvalid

/-- The prelude of every addressed host operation: handle, initialized, the operation's argument check, mode (R273). -/
def addressedPrelude (argumentCheck : Proc Unit) : Proc Unit := do
  checkHandleInit
  argumentCheck
  checkMode

end Sys2Proof.Machine
end

