-- ==== Sys2Proof/Machine/Operands.lean ====
section
/-! DEFINITION. Operand forms: pages and chunks (20_memory.md R76, 45_memory_transactions.md R295, R296), ROM bits
(20_memory.md R74), the bits of a byte in wire order (20_memory.md R73), and the argument checks (20_memory.md R77). -/

namespace Sys2Proof.Machine

/-- The bits of a byte in wire order, least significant first (20_memory.md R73). -/
def wireBits (x : Byte) : List Bool :=
  [x.getLsbD 0, x.getLsbD 1, x.getLsbD 2, x.getLsbD 3, x.getLsbD 4, x.getLsbD 5, x.getLsbD 6, x.getLsbD 7]

/-- A sampled bit enters the shift register at bit 7: `(acc >> 1) | (v << 7)` (41_byte_transport.md R173). -/
def shiftInBit (acc : Byte) (v : Bool) : Byte := (acc >>> 1) ||| ((if v then 1 else 0 : Byte) <<< 7)

/-- Byte `i` of an 8-byte block; outside it, 0. -/
def byteAt (r : Bytes8) (i : Nat) : Byte := r.toList.getD i 0

/-- The ROM bit at search position `p` (1 to 64): bit `(p-1) mod 8` of byte `(p-1) div 8` (20_memory.md R74). -/
def romBit (r : Bytes8) (p : Nat) : Bool := (byteAt r ((p - 1) / 8)).getLsbD ((p - 1) % 8)

/-- Set the ROM bit at search position `p` (44_rom_search.md R241). -/
def setRomBit (r : Bytes8) (p : Nat) : Bytes8 :=
  Bytes8.ofList (r.toList.set ((p - 1) / 8) (byteAt r ((p - 1) / 8) ||| ((1 : Byte) <<< ((p - 1) % 8))))

/-- The page of an address (20_memory.md R76). -/
def pageOf (a : Nat) : Nat := a - a % cfg.page

/-- The in-page offset of an address (20_memory.md R76). -/
def pageOffset (a : Nat) : Nat := a % cfg.page

/-- How many bytes of a write fall in the page of the cursor: `min(8 - o, rem)` (45_memory_transactions.md R295). -/
def chunkLen (c : Cursor) : Nat := min (cfg.page - pageOffset c.a) c.rem

/-- The chunk fills its page (45_memory_transactions.md R295). -/
def fullPage (c : Cursor) : Bool := pageOffset c.a == 0 && chunkLen c == cfg.page

/-- The data bytes of the cursor's chunk. -/
def chunkData (data : List Byte) (c : Cursor) : List Byte := (data.drop c.off).take (chunkLen c)

/-- `buf[o + j] <- data[off + j]` for the bytes of a chunk; the bytes of `buf` outside it stay (R296). -/
def overlay (buf : List Byte) (o : Nat) (chunk : List Byte) : List Byte :=
  buf.take o ++ chunk ++ buf.drop (o + chunk.length)

/-- `addr + len > 128` is rejected, over unbounded naturals (00_scope.md R9, 20_memory.md R77). -/
def checkRange (addr : Half) (len : Nat) : Proc Unit := require (addr.toNat + len ≤ cfg.memSize) .argRange

/-- `addr mod 8 != 0 or addr >= 0x80` is rejected (20_memory.md R77). -/
def checkPage (addr : Half) : Proc Unit :=
  require (addr.toNat % cfg.page == 0 && addr.toNat < cfg.memSize) .argAlign

/-- No argument check. -/
def noArgument : Proc Unit := pure ()

end Sys2Proof.Machine
end

