-- ==== Sys2Proof/Machine/BitTransport.lean ====
section
/-! DEFINITION. Bit-level transport: WBIT_STD, WBIT_OD, RBIT_STD, RBIT_OD (40_bit_transport.md R143 to R151). -/

namespace Sys2Proof.Machine

/-- The write slot of R144 in a profile: low, then released; the bit decides only the split (R143). -/
def writeSlot (P : Profile) (b : Bool) : Proc Unit := do
  busWrite false
  delayUs (if b then P.tW1L else P.tW0L)
  busWrite true
  delayUs (if b then P.tW1H else P.tW0H)

/-- The read slot of R146 in a profile. The bit is the sample, without inversion (R151). -/
def readSlot (P : Profile) : Proc Bool := do
  busWrite false
  delayUs P.tRL
  busWrite true
  delayUs P.tRS
  let v ← busRead
  delayUs P.tRR
  pure v

/-- WBIT_STD b, R144. -/
def execWbitStd (b : Bool) (s : State) : Host.Outcome State Fault Refusal :=
  microUnit (writeSlot (Prof.timing .std) b) s

/-- WBIT_OD b, R145. -/
def execWbitOd (b : Bool) (s : State) : Host.Outcome State Fault Refusal :=
  microUnit (writeSlot (Prof.timing .od) b) s

/-- RBIT_STD, R146. -/
def execRbitStd (s : State) : Host.Outcome State Fault Refusal :=
  runMicro (do let v ← readSlot (Prof.timing .std); pure (.ok (.bit v))) s

/-- RBIT_OD, R147. -/
def execRbitOd (s : State) : Host.Outcome State Fault Refusal :=
  runMicro (do let v ← readSlot (Prof.timing .od); pure (.ok (.bit v))) s

end Sys2Proof.Machine
end

