-- ==== Sys2Proof/Machine/ByteTransport.lean ====
section
/-! DEFINITION. Byte-level transport: WBYTE_STD, WBYTE_OD, RBYTE_STD, RBYTE_OD and the byte sequences built of them
(41_byte_transport.md R170 to R177). -/

namespace Sys2Proof.Machine

/-- The write slots of a list of bits, in order (R171). -/
def writeSlots (P : Profile) : List Bool → Proc Unit
  | [] => pure ()
  | b :: bs => do
    writeSlot P b
    writeSlots P bs

/-- `acc <- (acc >> 1) | (v << 7)`, R173. -/
def shiftIn (v : Bool) : Proc Unit := Proc.update fun s => { s with acc := some (shiftInBit s.accValue v) }

/-- `n` read slots, each sample entering the shift register (R174). -/
def readSlots (P : Profile) : Nat → Proc Unit
  | 0 => pure ()
  | n + 1 => do
    let v ← readSlot P
    shiftIn v
    readSlots P n

/-- WBYTE in a profile: eight slots, least significant bit first, in one critical section (R170, R171). -/
def writeByte (p : Prof) (x : Byte) : Proc Unit := critical (writeSlots p.timing (wireBits x))

/-- RBYTE in a profile: eight slots in one critical section, assembled in the shift register (R170, R173, R174). -/
def readByte (p : Prof) : Proc Byte := withAcc do
  critical (readSlots p.timing 8)
  Proc.look State.accValue

/-- `WBYTES_P(bs)`, R176. -/
def writeBytes (p : Prof) : List Byte → Proc Unit
  | [] => pure ()
  | x :: xs => do
    writeByte p x
    writeBytes p xs

/-- `RBYTES_P(n)`, R176. -/
def readBytes (p : Prof) : Nat → Proc (List Byte)
  | 0 => pure []
  | n + 1 => do
    let x ← readByte p
    let xs ← readBytes p n
    pure (x :: xs)

/-- WBYTE_STD x, R171. -/
def execWbyteStd (x : Byte) (s : State) : Host.Outcome State Fault Refusal := microUnit (writeByte .std x) s

/-- WBYTE_OD x, R172. -/
def execWbyteOd (x : Byte) (s : State) : Host.Outcome State Fault Refusal := microUnit (writeByte .od x) s

/-- RBYTE_STD, R174. -/
def execRbyteStd (s : State) : Host.Outcome State Fault Refusal :=
  runMicro (do let x ← readByte .std; pure (.ok (.byte x))) s

/-- RBYTE_OD, R175. -/
def execRbyteOd (s : State) : Host.Outcome State Fault Refusal :=
  runMicro (do let x ← readByte .od; pure (.ok (.byte x))) s

end Sys2Proof.Machine
end

