-- ==== Sys2Proof/Machine/BusReset.lean ====
section
/-! DEFINITION. Bus reset and presence detect: RESET_STD, RESET_OD (42_reset_presence.md R190 to R197). -/

namespace Sys2Proof.Machine

/-- `k <- k + 1`, R190. -/
def countPoll : Proc Unit := Proc.update fun s => { s with polls := some (s.pollCount + 1) }

/-- The poll loop of one phase of R190: sample, count, delay, until the sample is `want` or `budget` polls are taken. The
decision is on the sample, so a match at the last permitted poll counts (R193). The argument bounds the recursion; the
loop's own test is on the counter. -/
def pollLoop (P : Profile) (want : Bool) (budget : Nat) : Nat → Proc Unit
  | 0 => Proc.fail .noPresence
  | n + 1 => do
    let v ← busRead
    countPoll
    delayUs P.tPOLL
    let k ← Proc.look State.pollCount
    if v = want then pure ()
    else if k < budget then pollLoop P want budget n
    else Proc.fail .noPresence

/-- One phase of R190. -/
def pollPhase (P : Profile) (want : Bool) (budget : Nat) : Proc Unit := withPolls (pollLoop P want budget budget)

/-- `RESET_P`, R190. -/
def busReset (p : Prof) : Proc Unit := critical do
  busWrite false
  delayUs p.timing.tRSTL
  busWrite true
  delayUs p.timing.tRSTH
  pollPhase p.timing false p.timing.nPDL
  pollPhase p.timing true p.timing.nPDH

/-- RESET_STD, R191. -/
def execResetStd (s : State) : Host.Outcome State Fault Refusal := microUnit (busReset .std) s

/-- RESET_OD, R192. -/
def execResetOd (s : State) : Host.Outcome State Fault Refusal := microUnit (busReset .od) s

end Sys2Proof.Machine
end

