-- ==== Sys2Proof/Machine/Wire.lean ====
section
/-! DEFINITION. The wire command bytes: each is sent LSB first as one byte (41_byte_transport.md R171) in the profile of its
place in the frame (30_encoding.md R105, R107, R108, R109). What the devices do on it is the environment's (00_scope.md R4 (f),
43_rom_addressing.md R223; log 11). -/

namespace Sys2Proof.Machine

/-- The ROM command bytes as the addressing sequences send them. -/
def sendSkipRom : Proc Unit := writeByte .std cfg.cmdSkipRom

/-- CMD_OD_SKIP_ROM, sent in STD (R105). -/
def sendOdSkipRom : Proc Unit := writeByte .std cfg.cmdOdSkipRom

/-- CMD_MATCH_ROM, sent in STD (R105). -/
def sendMatchRom : Proc Unit := writeByte .std cfg.cmdMatchRom

/-- CMD_OD_MATCH_ROM, sent in STD (R105). -/
def sendOdMatchRom : Proc Unit := writeByte .std cfg.cmdOdMatchRom

/-- CMD_RESUME, sent in STD or OD (R105). -/
def sendResume (p : Prof) : Proc Unit := writeByte p cfg.cmdResume

/-- CMD_SKIP_ROM, R108. -/
def execCmdSkipRom (s : State) : Host.Outcome State Fault Refusal := microUnit sendSkipRom s

/-- CMD_OD_SKIP_ROM, R108. -/
def execCmdOdSkipRom (s : State) : Host.Outcome State Fault Refusal := microUnit sendOdSkipRom s

/-- CMD_MATCH_ROM, R108. -/
def execCmdMatchRom (s : State) : Host.Outcome State Fault Refusal := microUnit sendMatchRom s

/-- CMD_OD_MATCH_ROM, R108. -/
def execCmdOdMatchRom (s : State) : Host.Outcome State Fault Refusal := microUnit sendOdMatchRom s

/-- CMD_RESUME, R108. -/
def execCmdResume (p : Prof) (s : State) : Host.Outcome State Fault Refusal := microUnit (sendResume p) s

/-- CMD_SEARCH_ROM, R108; the search sends it in STD (44_rom_search.md R242). -/
def execCmdSearchRom (s : State) : Host.Outcome State Fault Refusal := microUnit (writeByte .std cfg.cmdSearchRom) s

/-- CMD_WRITE_SCRATCHPAD, R108, in the function-phase profile (R107). -/
def execCmdWriteScratchpad (p : Prof) (s : State) : Host.Outcome State Fault Refusal :=
  microUnit (writeByte p cfg.cmdWriteScratchpad) s

/-- CMD_READ_SCRATCHPAD, R108, in the function-phase profile. -/
def execCmdReadScratchpad (p : Prof) (s : State) : Host.Outcome State Fault Refusal :=
  microUnit (writeByte p cfg.cmdReadScratchpad) s

/-- CMD_COPY_SCRATCHPAD, R108, in the function-phase profile. -/
def execCmdCopyScratchpad (p : Prof) (s : State) : Host.Outcome State Fault Refusal :=
  microUnit (writeByte p cfg.cmdCopyScratchpad) s

/-- CMD_READ_MEMORY, R108, in the function-phase profile. -/
def execCmdReadMemory (p : Prof) (s : State) : Host.Outcome State Fault Refusal :=
  microUnit (writeByte p cfg.cmdReadMemory) s

end Sys2Proof.Machine
end

