-- ==== Sys2Proof/Machine/Addressing.lean ====
section
/-! DEFINITION. ROM addressing: ADDRESS over the six modes and ROM_MATCH (43_rom_addressing.md R210 to R223). -/

namespace Sys2Proof.Machine

/-- `for i in 0 .. 7: try WBYTE_P(ROM[i])`; where an unwritten ROM faults, the first read is the fault of R376. -/
def sendRom (p : Prof) : Proc Unit := do
  let r ← readRom
  writeBytes p r.toList

/-- Mode 0, skip-ROM, R213. -/
def addressSkip : Proc Prof := do
  busReset .std
  sendSkipRom
  pure .std

/-- Mode 1, overdrive-skip-ROM, R214. -/
def addressOdSkip : Proc Prof := do
  busReset .std
  sendOdSkipRom
  pure .od

/-- Mode 2, match-ROM, R215. -/
def addressMatch : Proc Prof := do
  busReset .std
  sendMatchRom
  sendRom .std
  pure .std

/-- Mode 3, overdrive-match-ROM, R216: the command in STD, the ROM bytes in OD. -/
def addressOdMatch : Proc Prof := do
  busReset .std
  sendOdMatchRom
  sendRom .od
  pure .od

/-- Mode 4, resume, R217. -/
def addressResume : Proc Prof := do
  busReset .std
  sendResume .std
  pure .std

/-- Mode 5, overdrive-resume, R218: the only mode whose reset is the overdrive reset. -/
def addressOdResume : Proc Prof := do
  busReset .od
  sendResume .od
  pure .od

/-- `ADDRESS`, R212. It returns the function-phase profile (R211). The host operations test the mode before it (R219). -/
def addressDevices : Proc Prof := do
  let m ← readMode
  match m.toNat with
  | 0 => addressSkip
  | 1 => addressOdSkip
  | 2 => addressMatch
  | 3 => addressOdMatch
  | 4 => addressResume
  | 5 => addressOdResume
  | _ => Proc.fail .modeInvalid

/-- ADDRESS, R212. -/
def execAddress (s : State) : Host.Outcome State Fault Refusal :=
  runMicro (do let p ← addressDevices; pure (.ok (.profile p))) s

/-- The body of ROM_MATCH, R220. MODE is not read. -/
def romMatchBody : Proc Output := do
  checkHandleInit
  busReset .std
  sendOdMatchRom
  sendRom .od
  pure .none

/-- ROM_MATCH, R220. -/
def execRomMatch (s : State) : Host.Outcome State Fault Refusal := runHost (HostOp.status .romMatch) romMatchBody s

end Sys2Proof.Machine
end

