-- ==== Sys2Proof/Machine/RomSearch.lean ====
section
/-! DEFINITION. ROM search: TRIPLET, SEARCH_ENGINE, SEARCH_ROM (44_rom_search.md R240 to R254). -/

namespace Sys2Proof.Machine

/-- The top of the discrepancy stack, or 0 when it is empty (R245). -/
def stackTop (stk : List Nat) : Nat := stk.getLastD 0

/-- Push a position; beyond `SEARCH_STACK_MAX` the push is refused (R246, log 7). -/
def pushDiscrepancy (p : Nat) : Proc Unit := do
  let stk ← Proc.look fun s => s.searchValue.stk
  if stk.length < cfg.searchStackMax then updateSearch fun q => { q with stk := q.stk ++ [p] }
  else Proc.stop .searchStackFull

/-- Pop the top of the stack. -/
def popDiscrepancy : Proc Unit := updateSearch fun q => { q with stk := q.stk.dropLast }

/-- `DECIDE(p, 0, 0)`, R245: take the 0-branch and push, replay the previous pass, or take the 1-branch and pop. -/
def decideDiscrepancy (p : Nat) : Proc Bool := do
  let q ← Proc.look State.searchValue
  if stackTop q.stk < p then do
    pushDiscrepancy p
    pure false
  else if p < stackTop q.stk then pure (romBit q.prev p)
  else do
    popDiscrepancy
    pure true

/-- `DECIDE(p, b, c)` for a pair that is not (1, 1), R244: a forced pair does not touch the stack. -/
def decideDirection (p : Nat) (b c : Bool) : Proc Bool :=
  if b = false ∧ c = false then decideDiscrepancy p else pure b

/-- `TRIPLET p`, R243: the bit, its complement, and the chosen bit written back, in one critical section; `none` is NONE. -/
def searchTriplet (p : Nat) : Proc (Option Bool) := critical do
  let b ← readSlot (Prof.timing .std)
  let c ← readSlot (Prof.timing .std)
  if b = true ∧ c = true then pure none
  else do
    let d ← decideDirection p b c
    writeSlot (Prof.timing .std) d
    pure (some d)

/-- Where d is 1, set the bit of the candidate at position `p` (R241). -/
def recordBit (p : Nat) (d : Bool) : Proc Unit :=
  updateSearch fun q => if d then { q with cand := setRomBit q.cand p } else q

/-- The positions of a pass from `65 - n` to 64; `false` is the premature end of R247. -/
def searchPositions : Nat → Proc Bool
  | 0 => pure true
  | n + 1 => do
    let t ← searchTriplet (64 - n)
    match t with
    | none => pure false
    | some d => do
      recordBit (64 - n) d
      searchPositions n

/-- One pass, always in STD (R241, R242); `false` is the premature end of R247. -/
def searchPass (cmd : Byte) : Proc Bool := do
  busReset .std
  writeByte .std cmd
  updateSearch fun q => { q with cand := Bytes8.zero }
  searchPositions 64

/-- `found <- found ++ [cand]; prev <- cand` (R241). -/
def recordFound : Proc Unit := updateSearch fun q => { q with found := q.found ++ [q.cand], prev := q.cand }

/-- The loop of R241, at most `fuel` passes; `found` grows by one a pass and ends the loop at `n` (R253), so `n` passes
are all the fuel it needs. -/
def searchLoop (cmd : Byte) (n : Nat) : Nat → Proc Unit
  | 0 => pure ()
  | fuel + 1 => do
    let full ← searchPass cmd
    if full then do
      recordFound
      let q ← Proc.look State.searchValue
      if q.stk = [] ∨ q.found.length = n then pure () else searchLoop cmd n fuel
    else pure ()

/-- `SEARCH_ENGINE n, cmd`, R241; with capacity 0 no pass runs (R249). -/
def searchEngine (n : Nat) (cmd : Byte) : Proc (List Bytes8) :=
  if n = 0 then pure []
  else withSearch do
    searchLoop cmd n n
    Proc.look fun s => s.searchValue.found

/-- The body of SEARCH_ROM, R240. MODE and ROM are not read. -/
def searchRomBody (n : Byte) : Proc Output := do
  checkHandleInit
  require (n.toNat ≤ cfg.maxSearch) .argRange
  let found ← searchEngine n.toNat cfg.cmdSearchRom
  pure (.search (BitVec.ofNat 8 found.length) found)

/-- SEARCH_ROM n, R240. -/
def execSearchRom (n : Byte) (s : State) : Host.Outcome State Fault Refusal :=
  runHost (HostOp.status .searchRom) (searchRomBody n) s

/-- SEARCH_ENGINE n, cmd, R241. -/
def execSearchEngine (n cmd : Byte) (s : State) : Host.Outcome State Fault Refusal :=
  runMicro (do let found ← searchEngine n.toNat cmd; pure (.ok (.roms found))) s

/-- The result of TRIPLET: OK(d) or NONE (R243). -/
def tripletResult : Option Bool → MicroResult
  | some d => .ok (.bit d)
  | none => .none

/-- TRIPLET run by itself: on the search state that is there, or, where there is none, on the one a search begins with,
which is discarded again (log 12). -/
def tripletBody (p : Nat) : Proc MicroResult := do
  let q ← Proc.look State.search
  let t ← match q with
    | some _ => searchTriplet p
    | none => withSearch (searchTriplet p)
  pure (tripletResult t)

/-- TRIPLET p, R243. -/
def execTriplet (p : Byte) (s : State) : Host.Outcome State Fault Refusal := runMicro (tripletBody p.toNat) s

end Sys2Proof.Machine
end

