-- ==== Sys2Proof/Machine/MemoryTransaction.lean ====
section
/-! DEFINITION. Memory transactions: the scratchpad operations, MEM_READ, PAGE_WRITE, READ, READ_MEMORY, WRITE and the
configuration block (45_memory_transactions.md R270 to R298). -/

namespace Sys2Proof.Machine

/-! ## Bytes of a scratchpad transaction -/

/-- The running CRC-16 takes one more byte (R270). -/
def crcByte (x : Byte) : Proc Unit := updateTx fun t => { t with crc := crcUpd t.crc x }

/-- Send bytes, each entering the running CRC (R272). -/
def sendCounted (p : Prof) : List Byte → Proc Unit
  | [] => pure ()
  | x :: xs => do
    writeByte p x
    crcByte x
    sendCounted p xs

/-- Read a byte into the readback, entering the running CRC (R272): a CRC byte, or a header byte of READ_SCRATCHPAD (R280).
That the header bytes are readback bytes is the model's choice (DESIGN CHOICE, log 29). -/
def readCounted (p : Prof) : Proc Byte := do
  let x ← readByte p
  crcByte x
  updateTx fun t => { t with readback := t.readback ++ [x] }
  pure x

/-- Read a byte into the readback without the CRC: a status byte (R275, R280, R285). That a status byte is a readback byte is
the model's choice (DESIGN CHOICE, log 29). -/
def readStatus (p : Prof) : Proc Byte := do
  let x ← readByte p
  updateTx fun t => { t with readback := t.readback ++ [x] }
  pure x

/-- Read `n` data bytes, entering the running CRC and the transaction's data (R280). -/
def readDataCounted (p : Prof) : Nat → Proc Unit
  | 0 => pure ()
  | n + 1 => do
    let x ← readByte p
    crcByte x
    updateTx fun t => { t with data := t.data ++ [x] }
    readDataCounted p n

/-- `if CRC16(...) != 0xB001 then` fail with CRC (R272). -/
def checkCrc : Proc Unit := do
  let t ← Proc.look State.txValue
  require (crcAccepts t.crc) .crc

/-- The target address of the transaction, low byte first (20_memory.md R72). -/
def txAddress (t : ScratchTx) : List Byte := [lo8 t.ta, hi8 t.ta]

/-- `try WBS([CMD_WRITE_SCRATCHPAD, lo(addr), hi(addr)] ++ data)` with the running CRC (R275, R290). -/
def sendWriteScratchpad (p : Prof) : Proc Unit := do
  let t ← Proc.look State.txValue
  sendCounted p (cfg.cmdWriteScratchpad :: (txAddress t ++ t.data))

/-- `try WBS([CMD_COPY_SCRATCHPAD, lo(addr), hi(addr), 0x07])`, then the programming wait outside any critical section,
then the status byte (R285, R290). -/
def copyFrame (p : Prof) : Proc Unit := do
  let t ← Proc.look State.txValue
  writeBytes p (cfg.cmdCopyScratchpad :: (txAddress t ++ [cfg.esExpect]))
  delayMs cfg.copyDelayMs
  let x ← readStatus p
  require (x == cfg.copyOk) .response

/-! ## The scratchpad operations -/

/-- The body of WRITE_SCRATCHPAD, R275: the CRC is checked before the status byte, both after all three bytes. -/
def writeScratchpadBody (addr : Half) (data : Bytes8) : Proc Output := do
  addressedPrelude (checkPage addr)
  withTx addr data.toList do
    let p ← addressDevices
    sendWriteScratchpad p
    let _ ← readCounted p
    let _ ← readCounted p
    let x ← readStatus p
    checkCrc
    require (x == cfg.trailOk) .statusByte
  pure .none

/-- WRITE_SCRATCHPAD addr, data, R275. -/
def execWriteScratchpad (addr : Half) (data : Bytes8) (s : State) : Host.Outcome State Fault Refusal :=
  runHost (HostOp.status .writeScratchpad) (writeScratchpadBody addr data) s

/-- The transaction of READ_SCRATCHPAD, R280: all 14 bytes are read before any check; the checks are E/S, trailing byte, CRC.
Of the 14, all but the eight data bytes are kept as readback bytes, t0, t1 and E/S too (DESIGN CHOICE, log 29). -/
def readScratchpadFrame : Proc Output := do
  let p ← addressDevices
  sendCounted p [cfg.cmdReadScratchpad]
  let t0 ← readCounted p
  let t1 ← readCounted p
  updateTx fun t => { t with ta := half t0 t1 }
  let es ← readCounted p
  readDataCounted p cfg.page
  let _ ← readCounted p
  let _ ← readCounted p
  let x ← readStatus p
  require (es == cfg.esExpect) .statusByte
  require (x == cfg.trailOk) .statusByte
  checkCrc
  let t ← Proc.look State.txValue
  pure (.scratchpad t.ta (Bytes8.ofList t.data))

/-- The body of READ_SCRATCHPAD, R280. Until it has read them, TA is 0 and DATA holds no bytes (DESIGN CHOICE, log 28). -/
def readScratchpadBody : Proc Output := do
  addressedPrelude noArgument
  withTx 0 [] readScratchpadFrame

/-- READ_SCRATCHPAD, R280. -/
def execReadScratchpad (s : State) : Host.Outcome State Fault Refusal :=
  runHost (HostOp.status .readScratchpad) readScratchpadBody s

/-- The body of COPY_SCRATCHPAD, R285. It has no data operand: the transaction's DATA holds no bytes, where R43 leaves open
what it holds (DESIGN CHOICE, log 28). -/
def copyScratchpadBody (addr : Half) : Proc Output := do
  addressedPrelude (checkPage addr)
  withTx addr [] do
    let p ← addressDevices
    copyFrame p
  pure .none

/-- COPY_SCRATCHPAD addr, R285. -/
def execCopyScratchpad (addr : Half) (s : State) : Host.Outcome State Fault Refusal :=
  runHost (HostOp.status .copyScratchpad) (copyScratchpadBody addr) s

/-! ## The internal helpers -/

/-- `MEM_READ addr, len`, R288. -/
def memoryRead (addr : Half) (len : Nat) : Proc (List Byte) := do
  let p ← addressDevices
  writeBytes p [cfg.cmdReadMemory, lo8 addr, hi8 addr]
  readBytes p len

/-- `PAGE_WRITE addr, data`, R290: session 1 writes the scratchpad and verifies the CRC readback, session 2 re-addresses
and copies. -/
def pageWrite (addr : Half) (data : List Byte) : Proc Unit := withTx addr data do
  let p ← addressDevices
  sendWriteScratchpad p
  let _ ← readCounted p
  let _ ← readCounted p
  checkCrc
  let p ← addressDevices
  copyFrame p

/-- MEM_READ addr, len, R288. -/
def execMemRead (addr len : Half) (s : State) : Host.Outcome State Fault Refusal :=
  runMicro (do let bs ← memoryRead addr len.toNat; pure (.ok (.bytes bs))) s

/-- PAGE_WRITE addr, data, R290. -/
def execPageWrite (addr : Half) (data : Bytes8) (s : State) : Host.Outcome State Fault Refusal :=
  microUnit (pageWrite addr data.toList) s

/-! ## Public read and write -/

/-- The body of READ and READ_MEMORY, R292 and R293. -/
def readBody (addr len : Half) : Proc Output := do
  addressedPrelude (checkRange addr len.toNat)
  let bs ← memoryRead addr len.toNat
  pure (.data bs)

/-- READ addr, len, R292. -/
def execRead (addr len : Half) (s : State) : Host.Outcome State Fault Refusal :=
  runHost (HostOp.status .read) (readBody addr len) s

/-- READ_MEMORY addr, len, R293. -/
def execReadMemory (addr len : Half) (s : State) : Host.Outcome State Fault Refusal :=
  runHost (HostOp.status .readMemory) (readBody addr len) s

/-- One chunk of WRITE at the cursor: a full page directly, any other by read-modify-write (R295, R296). -/
def writeChunk (data : List Byte) (c : Cursor) : Proc Unit := do
  let page := BitVec.ofNat 16 (pageOf c.a)
  if fullPage c then pageWrite page (chunkData data c)
  else do
    let buf ← memoryRead page cfg.page
    pageWrite page (overlay buf (pageOffset c.a) (chunkData data c))

/-- The chunk loop of R295, at most `fuel` chunks; each chunk writes at least one byte, so `len` chunks are all the fuel it
needs. -/
def writeLoop (data : List Byte) : Nat → Proc Unit
  | 0 => pure ()
  | fuel + 1 => do
    let c ← Proc.look State.cursorValue
    if c.rem = 0 then pure ()
    else do
      writeChunk data c
      advanceCursor (chunkLen c)
      writeLoop data fuel

/-- The body of WRITE, R295. -/
def writeBody (addr : Half) (data : List Byte) : Proc Output := do
  addressedPrelude (checkRange addr data.length)
  withCursor { a := addr.toNat, off := 0, rem := data.length } (writeLoop data data.length)
  pure .none

/-- WRITE addr, len, data, R295. -/
def execWrite (addr : Half) (data : List Byte) (s : State) : Host.Outcome State Fault Refusal :=
  runHost (HostOp.status .write) (writeBody addr data) s

/-! ## The configuration block -/

/-- The body of READ_CONFIG, R297. -/
def readConfigBody : Proc Output := do
  addressedPrelude noArgument
  let bs ← memoryRead cfg.configAddr cfg.configLen
  pure (.config (Bytes8.ofList bs))

/-- READ_CONFIG, R297. -/
def execReadConfig (s : State) : Host.Outcome State Fault Refusal :=
  runHost (HostOp.status .readConfig) readConfigBody s

/-- The body of WRITE_CONFIG, R298. -/
def writeConfigBody (block : Bytes8) : Proc Output := do
  addressedPrelude noArgument
  pageWrite cfg.configAddr block.toList
  pure .none

/-- WRITE_CONFIG cfg, R298. -/
def execWriteConfig (block : Bytes8) (s : State) : Host.Outcome State Fault Refusal :=
  runHost (HostOp.status .writeConfig) (writeConfigBody block) s

end Sys2Proof.Machine
end

