-- ==== Sys2Proof/Machine/HandleControl.lean ====
section
/-! DEFINITION. Handle control: INIT, DEINIT, SET_MODE, GET_MODE, SET_ROM, GET_ROM (46_handle_control.md R330 to R336). -/

namespace Sys2Proof.Machine

/-- The body of INIT, R331: INITED is not tested. -/
def initBody : Proc Output := do
  checkHandle
  let caps ← Proc.look State.caps
  require caps.connected .missingCap
  busInit
  writeInited true
  pure .none

/-- INIT, R331. -/
def execInit (s : State) : Host.Outcome State Fault Refusal := runHost (HostOp.status .init) initBody s

/-- The body of DEINIT, R332. -/
def deinitBody : Proc Output := do
  checkHandleInit
  busDeinit
  writeInited false
  pure .none

/-- DEINIT, R332. -/
def execDeinit (s : State) : Host.Outcome State Fault Refusal := runHost (HostOp.status .deinit) deinitBody s

/-- The body of SET_MODE, R333: the operand is not checked. -/
def setModeBody (m : Byte) : Proc Output := do
  checkHandleInit
  writeMode m
  pure .none

/-- SET_MODE m, R333. -/
def execSetMode (m : Byte) (s : State) : Host.Outcome State Fault Refusal :=
  runHost (HostOp.status .setMode) (setModeBody m) s

/-- The body of GET_MODE, R334. -/
def getModeBody : Proc Output := do
  checkHandleInit
  let m ← readMode
  pure (.mode m)

/-- GET_MODE, R334. -/
def execGetMode (s : State) : Host.Outcome State Fault Refusal := runHost (HostOp.status .getMode) getModeBody s

/-- The body of SET_ROM, R335. -/
def setRomBody (r : Bytes8) : Proc Output := do
  checkHandleInit
  writeRom r
  pure .none

/-- SET_ROM r, R335. -/
def execSetRom (r : Bytes8) (s : State) : Host.Outcome State Fault Refusal :=
  runHost (HostOp.status .setRom) (setRomBody r) s

/-- The body of GET_ROM, R336. -/
def getRomBody : Proc Output := do
  checkHandleInit
  let r ← readRom
  pure (.rom r)

/-- GET_ROM, R336. -/
def execGetRom (s : State) : Host.Outcome State Fault Refusal := runHost (HostOp.status .getRom) getRomBody s

end Sys2Proof.Machine
end

