-- ==== Sys2Proof/Machine/Dispatch.lean ====
section
/-! DEFINITION. The dispatch: one arm per instruction. -/

namespace Sys2Proof.Machine

/-- What an instruction does to a state. -/
def exec (i : Instr) (s : State) : Host.Outcome State Fault Refusal :=
  match i with
  | .init => Sys2Proof.Machine.execInit s
  | .deinit => Sys2Proof.Machine.execDeinit s
  | .setMode m => Sys2Proof.Machine.execSetMode m s
  | .getMode => Sys2Proof.Machine.execGetMode s
  | .setRom r => Sys2Proof.Machine.execSetRom r s
  | .getRom => Sys2Proof.Machine.execGetRom s
  | .romMatch => Sys2Proof.Machine.execRomMatch s
  | .read addr len => Sys2Proof.Machine.execRead addr len s
  | .write addr data => Sys2Proof.Machine.execWrite addr data s
  | .readConfig => Sys2Proof.Machine.execReadConfig s
  | .writeConfig block => Sys2Proof.Machine.execWriteConfig block s
  | .readScratchpad => Sys2Proof.Machine.execReadScratchpad s
  | .writeScratchpad addr data => Sys2Proof.Machine.execWriteScratchpad addr data s
  | .copyScratchpad addr => Sys2Proof.Machine.execCopyScratchpad addr s
  | .readMemory addr len => Sys2Proof.Machine.execReadMemory addr len s
  | .searchRom n => Sys2Proof.Machine.execSearchRom n s
  | .resetStd => Sys2Proof.Machine.execResetStd s
  | .resetOd => Sys2Proof.Machine.execResetOd s
  | .wbitStd b => Sys2Proof.Machine.execWbitStd b s
  | .wbitOd b => Sys2Proof.Machine.execWbitOd b s
  | .rbitStd => Sys2Proof.Machine.execRbitStd s
  | .rbitOd => Sys2Proof.Machine.execRbitOd s
  | .wbyteStd x => Sys2Proof.Machine.execWbyteStd x s
  | .wbyteOd x => Sys2Proof.Machine.execWbyteOd x s
  | .rbyteStd => Sys2Proof.Machine.execRbyteStd s
  | .rbyteOd => Sys2Proof.Machine.execRbyteOd s
  | .triplet p => Sys2Proof.Machine.execTriplet p s
  | .address => Sys2Proof.Machine.execAddress s
  | .pageWrite addr data => Sys2Proof.Machine.execPageWrite addr data s
  | .memRead addr len => Sys2Proof.Machine.execMemRead addr len s
  | .searchEngine n cmd => Sys2Proof.Machine.execSearchEngine n cmd s
  | .cmdSkipRom => Sys2Proof.Machine.execCmdSkipRom s
  | .cmdOdSkipRom => Sys2Proof.Machine.execCmdOdSkipRom s
  | .cmdMatchRom => Sys2Proof.Machine.execCmdMatchRom s
  | .cmdOdMatchRom => Sys2Proof.Machine.execCmdOdMatchRom s
  | .cmdResume p => Sys2Proof.Machine.execCmdResume p s
  | .cmdSearchRom => Sys2Proof.Machine.execCmdSearchRom s
  | .cmdWriteScratchpad p => Sys2Proof.Machine.execCmdWriteScratchpad p s
  | .cmdReadScratchpad p => Sys2Proof.Machine.execCmdReadScratchpad p s
  | .cmdCopyScratchpad p => Sys2Proof.Machine.execCmdCopyScratchpad p s
  | .cmdReadMemory p => Sys2Proof.Machine.execCmdReadMemory p s

end Sys2Proof.Machine
end

