-- ==== Sys2Proof/Machine/Step.lean ====
section
/-! DEFINITION. One step of the machine: the next request, run to completion (20_memory.md R85). -/

namespace Sys2Proof.Machine

/-- What a halted machine answers: "a faulted state is never a final state, and no later request runs" (60_exceptions.md R376),
and the refusal mark stays set for the rest of the run (R377). -/
def stopped : Halt → Host.Outcome State Fault Refusal
  | .unwrittenRead reg => .fault (.unwrittenRead reg)
  | .searchStackFull => .refused .searchStackFull

/-- The state in which a request's instruction runs: the request has left the queue, its handle is the one under test. -/
def State.takeRequest (s : State) (r : Request) (rest : List Request) : State := { s with inbox := rest, handle := r.handle }

/-- One step. A halted machine runs nothing; with no request waiting the core waits (70_reset_and_hazards.md R400, log 2);
bytes that are no request are refused without a step (30_encoding.md R111, 60_exceptions.md R377); else the instruction runs. -/
def step (s : State) : Host.Outcome State Fault Refusal :=
  match s.halt with
  | some h => stopped h
  | none =>
    match s.inbox with
    | [] => .next s
    | r :: rest =>
      match decode r.level r.bytes with
      | .error why => .refused (.illegalRequest why)
      | .ok i => exec i (s.takeRequest r rest)

/-- A request of the core for an opcode-table word: its bytes, operand bytes of zeros, at the level of the word (log 3). -/
def tableRequest (nbits w : Nat) : Request where
  handle := .core
  level := tableLevel ((tableBytes nbits w).headD 0)
  bytes :=
    match decodeFirst (tableLevel ((tableBytes nbits w).headD 0)) (tableBytes nbits w) with
    | .ok (_, rest) => (tableBytes nbits w).take ((tableBytes nbits w).length - rest.length)
    | .error _ => tableBytes nbits w

/-- The state in which the next step runs the request of an opcode-table word: it is placed first in the queue, and the
machine is not halted (log 2). -/
def State.withFetchWord (s : State) (nbits w : Nat) : State :=
  { s with inbox := tableRequest nbits w :: s.inbox, halt := none }

end Sys2Proof.Machine
end

