-- ==== Sys2Proof/Safety.lean ====
section
/-! DEFINITION. The terms claims are stated in: what a state between requests looks like, what a well-bracketed trace is,
and, for claims about a sequence that succeeds, which answers of the environment let it and which events it then emits.
The events and answers are written from the spec's traces (40_bit_transport.md, 41_byte_transport.md, 42_reset_presence.md,
30_encoding.md R105 and R107), not from the machine's sequences. -/

namespace Sys2Proof

/-! ## Events -/

/-- The event is a capability call that draws an answer (00_scope.md R11). -/
def PortEvent.isCall : PortEvent → Bool
  | .busInit | .busDeinit | .w _ | .r => true
  | .dus _ | .dms _ | .irqOff | .irqOn => false

/-- The event is one of the interrupt mask. -/
def PortEvent.isIrq : PortEvent → Bool
  | .irqOff | .irqOn => true
  | .busInit | .busDeinit | .w _ | .r | .dus _ | .dms _ => false

end Sys2Proof

namespace Sys2Proof.Machine

/-! ## States -/

/-- Between two requests: outside any critical section (10_state.md R41) and with no transient state (R43 to R45). -/
abbrev State.Quiet (s : State) : Prop :=
  s.cs = false ∧ s.tx = none ∧ s.search = none ∧ s.acc = none ∧ s.polls = none ∧ s.cursor = none

/-- A host operation gets past the null-handle and initialized checks (60_exceptions.md R362, R363). -/
abbrev State.Ready (s : State) : Prop := s.handle = .core ∧ s.inited = true

/-- MODE can be read and is legal (10_state.md R34). -/
abbrev State.ModeLegal (s : State) : Prop := s.modeReadable = true ∧ s.mode.toNat ≤ 5

/-- A safe run ends in a state in which nothing was recorded that stops the machine (60_exceptions.md R376, R377). -/
abbrev State.Safe (s : State) : Prop := s.halt = none

/-- A discrepancy stack as R246 of 44_rom_search.md describes it: strictly increasing positions 1 to 64. -/
abbrev StackIncreasing (stk : List Nat) : Prop := stk.Pairwise (· < ·) ∧ ∀ p ∈ stk, 1 ≤ p ∧ p ≤ 64

/-- Instructions run one after another; `none` when one of them ends in a fault or a refusal. -/
def execAll : List Instr → State → Option State
  | [], s => some s
  | i :: is, s =>
    match exec i s with
    | .next t => execAll is t
    | .fault _ => none
    | .refused _ => none

/-- A host response. -/
def hostReply (status : Byte) (cause : Cause) (out : Output) : Reply := .host ⟨status, cause, out⟩

/-- A micro-operation's OK without a value. -/
def microOk : Reply := .micro (.ok .unit)

/-- The same state with other contents of MODE and ROM. -/
def State.withModeRom (s : State) (m : Byte) (mw : Bool) (r : Bytes8) (rw : Bool) : State :=
  { s with mode := m, modeWritten := mw, rom := r, romWritten := rw }

/-! ## Traces -/

/-- How many answers a trace draws. -/
def callCount (evs : List PortEvent) : Nat := evs.countP PortEvent.isCall

/-- One event of a well-bracketed trace (00_scope.md R13, 60_exceptions.md R368): sections do not nest, every line event
and slot delay is inside one, the millisecond wait and the bus (de)initialization are outside. The Bool says whether a
section is open; `none` is a violation. -/
def bracketStep (inside : Bool) : PortEvent → Option Bool
  | .irqOff => if inside then none else some true
  | .irqOn => if inside then some false else none
  | .w _ | .r | .dus _ => if inside then some true else none
  | .dms _ | .busInit | .busDeinit => if inside then none else some false

/-- A well-bracketed trace, from an open or closed section to one. -/
def bracketed : Bool → List PortEvent → Option Bool
  | inside, [] => some inside
  | inside, e :: es =>
    match bracketStep inside e with
    | some inside => bracketed inside es
    | none => none

/-- The trace of a write slot (40_bit_transport.md R144). -/
def writeSlotTrace (P : Profile) (b : Bool) : List PortEvent :=
  if b then [.w false, .dus P.tW1L, .w true, .dus P.tW1H] else [.w false, .dus P.tW0L, .w true, .dus P.tW0H]

/-- The trace of a read slot (R146). -/
def readSlotTrace (P : Profile) : List PortEvent :=
  [.w false, .dus P.tRL, .w true, .dus P.tRS, .r, .dus P.tRR]

/-- The bits of a byte, bit 0 first. -/
def lsbFirst (x : Byte) : List Bool := (List.range 8).map x.getLsbD

/-- The trace of a sent byte (41_byte_transport.md R171). -/
def byteWriteTrace (p : Prof) (x : Byte) : List PortEvent :=
  .irqOff :: ((lsbFirst x).flatMap (writeSlotTrace p.timing) ++ [.irqOn])

/-- The trace of a received byte (R174). -/
def byteReadTrace (p : Prof) : List PortEvent :=
  .irqOff :: ((List.range 8).flatMap (fun _ => readSlotTrace p.timing) ++ [.irqOn])

/-- The trace of a reset that takes `k` samples in all (42_reset_presence.md R190). -/
def resetTrace (p : Prof) (k : Nat) : List PortEvent :=
  [.irqOff, .w false, .dus p.timing.tRSTL, .w true, .dus p.timing.tRSTH]
    ++ (List.range k).flatMap (fun _ => [.r, .dus p.timing.tPOLL]) ++ [.irqOn]

/-- The trace of a list of sent bytes (41_byte_transport.md R176). -/
def bytesWriteTrace (p : Prof) (bs : List Byte) : List PortEvent := bs.flatMap (byteWriteTrace p)

/-- The trace of `n` received bytes (R176). -/
def bytesReadTrace (p : Prof) (n : Nat) : List PortEvent := (List.range n).flatMap fun _ => byteReadTrace p

/-- The reset profile of a mode (30_encoding.md R105). -/
def modeReset (m : Byte) : Prof := if m.toNat = 5 then .od else .std

/-- The function-phase profile of a mode (43_rom_addressing.md R211). -/
def modeFunction (m : Byte) : Prof :=
  if m.toNat = 0 ∨ m.toNat = 2 ∨ m.toNat = 4 then .std else .od

/-- The mode sends the ROM bytes (30_encoding.md R105). -/
abbrev ModeSendsRom (m : Byte) : Prop := m.toNat = 2 ∨ m.toNat = 3

/-- What a mode sends after its reset, by the rows of 30_encoding.md R105: profile and bytes of each part. -/
def modeCommandTrace (m : Byte) (rom : Bytes8) : List PortEvent :=
  match m.toNat with
  | 0 => byteWriteTrace .std 0xCC
  | 1 => byteWriteTrace .std 0x3C
  | 2 => byteWriteTrace .std 0x55 ++ bytesWriteTrace .std rom.toList
  | 3 => byteWriteTrace .std 0x69 ++ bytesWriteTrace .od rom.toList
  | 4 => byteWriteTrace .std 0xA5
  | 5 => byteWriteTrace .od 0xA5
  | _ => []

/-- The trace of an addressing sequence whose reset takes `k` samples (43_rom_addressing.md R212 to R218). -/
def addressTrace (m : Byte) (rom : Bytes8) (k : Nat) : List PortEvent :=
  resetTrace (modeReset m) k ++ modeCommandTrace m rom

/-- The trace of a search triplet that reads its two slots and writes `d` (44_rom_search.md R243). -/
def tripletTrace (d : Bool) : List PortEvent :=
  .irqOff :: (readSlotTrace profStd ++ readSlotTrace profStd ++ writeSlotTrace profStd d ++ [.irqOn])

/-- The trace of a triplet that ends with NONE: two read slots and no write slot (R243). -/
def tripletNoneTrace : List PortEvent := .irqOff :: (readSlotTrace profStd ++ readSlotTrace profStd ++ [.irqOn])

/-! ## Answers that let a sequence succeed -/

/-- What is asked of one answer: status 0, and the given sample where one is given. -/
abbrev Wanted := Option Bool

/-- The answers are as many as wanted, and each is as wanted. -/
def fits : List Wanted → List Answer → Bool
  | [], [] => true
  | w :: ws, a :: as => a.status == 0 && (w == none || w == some a.sample) && fits ws as
  | [], _ :: _ => false
  | _ :: _, [] => false

/-- The two writes of each of `n` write slots. -/
def slotsWritten (n : Nat) : List Wanted := List.replicate (2 * n) none

/-- A read slot that samples `b`. -/
def slotRead (b : Bool) : List Wanted := [none, none, some b]

/-- `n` bytes sent. -/
def bytesWritten (n : Nat) : List Wanted := slotsWritten (8 * n)

/-- The bytes received. -/
def bytesRead (bs : List Byte) : List Wanted := bs.flatMap fun x => (lsbFirst x).flatMap slotRead

/-- A reset whose first low sample is the `k1`-th of phase 1 and whose first high sample is the `k2`-th of phase 2. -/
def resetPresent (k1 k2 : Nat) : List Wanted :=
  [none, none] ++ List.replicate (k1 - 1) (some true) ++ [some false] ++ List.replicate (k2 - 1) (some false) ++ [some true]

/-- The two sample numbers are within the poll budgets of a profile (42_reset_presence.md R193). -/
abbrev PollsWithin (p : Prof) (k1 k2 : Nat) : Prop :=
  1 ≤ k1 ∧ k1 ≤ p.timing.nPDL ∧ 1 ≤ k2 ∧ k2 ≤ p.timing.nPDH

/-- How many bytes a mode sends after its reset (30_encoding.md R105). -/
def modeCommandBytes (m : Byte) : Nat := if m.toNat = 2 ∨ m.toNat = 3 then 9 else 1

/-- An addressing sequence that succeeds. -/
def addressed (m : Byte) (k1 k2 : Nat) : List Wanted := resetPresent k1 k2 ++ bytesWritten (modeCommandBytes m)

/-- The registers and poll numbers with which an addressing sequence can succeed: MODE legal, ROM readable where the mode
sends it, the samples within the budgets. -/
abbrev State.Addressable (s : State) (k1 k2 : Nat) : Prop :=
  s.ModeLegal ∧ (ModeSendsRom s.mode → s.romReadable = true) ∧ PollsWithin (modeReset s.mode) k1 k2

/-- A triplet that reads `b`, then `c`, and writes a bit back. -/
def tripletAnswers (b c : Bool) : List Wanted := slotRead b ++ slotRead c ++ slotsWritten 1

/-- The search pass of a line with the one device `r` (44_rom_search.md R241, R244). -/
def singlePass (r : Bytes8) (k1 k2 : Nat) : List Wanted :=
  resetPresent k1 k2 ++ bytesWritten 1
    ++ (List.range 64).flatMap fun i => tripletAnswers (romBit r (i + 1)) (!romBit r (i + 1))

/-- The devices of a population that agree with `r` at every position below `p`: those still active when the pass that
finds `r` comes to `p` (44_rom_search.md R243). -/
def activeAt (roms : List Bytes8) (r : Bytes8) (p : Nat) : List Bytes8 :=
  roms.filter fun q => (List.range (p - 1)).all fun i => romBit q (i + 1) == romBit r (i + 1)

/-- The search pass that finds `r`, up to and including its triplet at position `n`, in a population whose devices share the
line, which is low when any of them drives it low: a slot samples 1 only where all the active devices send 1
(44_rom_search.md R243, R244). -/
def populationPrefix (roms : List Bytes8) (r : Bytes8) (k1 k2 n : Nat) : List Wanted :=
  resetPresent k1 k2 ++ bytesWritten 1
    ++ (List.range n).flatMap fun i =>
        tripletAnswers ((activeAt roms r (i + 1)).all fun q => romBit q (i + 1))
          ((activeAt roms r (i + 1)).all fun q => !romBit q (i + 1))

/-- The whole search pass that finds `r` in a population. -/
def populationPass (roms : List Bytes8) (r : Bytes8) (k1 k2 : Nat) : List Wanted := populationPrefix roms r k1 k2 64

/-- The first passes of a search of a population, as many as there are poll numbers, the j-th finding the j-th identifier. -/
def populationPasses (roms : List Bytes8) (polls : List (Nat × Nat)) : List Wanted :=
  (roms.zip polls).flatMap fun x => populationPass roms x.1 x.2.1 x.2.2

/-- Ascending from bit position 1 as the most significant (44_rom_search.md R252): of two identifiers the earlier has 0 at
the first position where they differ. -/
def RomsAscending (roms : List Bytes8) : Prop :=
  roms.Pairwise fun q r => ∃ p, 1 ≤ p ∧ p ≤ 64 ∧ romBit q p = false ∧ romBit r p = true ∧
    ∀ i, 1 ≤ i → i < p → romBit q i = romBit r i

/-- The trace of a search pass that finds `r`, up to and including its triplet at position `n`. -/
def passPrefixTrace (r : Bytes8) (cmd : Byte) (k n : Nat) : List PortEvent :=
  resetTrace .std k ++ byteWriteTrace .std cmd ++ (List.range n).flatMap fun i => tripletTrace (romBit r (i + 1))

/-- The trace of a whole search pass that finds `r`. -/
def singlePassTrace (r : Bytes8) (cmd : Byte) (k : Nat) : List PortEvent := passPrefixTrace r cmd k 64

/-- The trace of the first passes of a search, as many as there are poll numbers. -/
def passesTrace (roms : List Bytes8) (cmd : Byte) (polls : List (Nat × Nat)) : List PortEvent :=
  (roms.zip polls).flatMap fun x => singlePassTrace x.1 cmd (x.2.1 + x.2.2)

/-! ## The state after a sequence -/

/-- The state after a sequence of whole bytes and resets that succeeded: its events emitted, its answers used up, the line
released, outside any critical section, everything else unchanged. -/
def State.ran (s : State) (evs : List PortEvent) (rest : List Answer) : State :=
  { s with trace := s.trace ++ evs, env := rest, line := some true, cs := false }

/-- The events of a trace up to and including its `n`-th capability call. -/
def upToCall : Nat → List PortEvent → List PortEvent
  | 0, _ => []
  | _ + 1, [] => []
  | n + 1, e :: es => e :: upToCall (if e.isCall then n else n + 1) es

/-- LINE after events whose calls succeeded: the last value written, if one was (10_state.md R42). -/
def latched (line : Option Bool) : List PortEvent → Option Bool
  | [] => line
  | .w b :: es => latched (some b) es
  | .r :: es | .busInit :: es | .busDeinit :: es | .dus _ :: es | .dms _ :: es | .irqOff :: es | .irqOn :: es => latched line es

/-- The state after a sequence with the trace `evs` in which `j` capability calls succeeded and the next, inside a critical
section, failed: the events up to the failing call and the IRQ_ON that closes the section (00_scope.md R13), LINE what the
calls before it latched, everything else unchanged. -/
def State.failedAt (s : State) (evs : List PortEvent) (j : Nat) (rest : List Answer) : State :=
  { s with
    trace := s.trace ++ upToCall (j + 1) evs ++ [.irqOn]
    env := rest
    line := latched s.line (upToCall j evs)
    cs := false }

/-- Instruction `i`, which makes the calls `ws` with the trace `evs` while they all succeed, ends with the reply `r` at
whichever of them fails first, with the events up to it (00_scope.md R12, 60_exceptions.md R366, R367). -/
def FailingCallEnds (s : State) (ws : List Wanted) (evs : List PortEvent) (i : Instr) (r : Reply) : Prop :=
  ∀ (j : Nat) (as : List Answer) (a : Answer) (rest : List Answer), j < ws.length → fits (ws.take j) as = true →
    a.status ≠ 0 → s.env = as ++ a :: rest → exec i s = .next ((s.failedAt evs j rest).reply r)

/-- The same state with MODE and ROM counted as written. -/
def State.allWritten (s : State) : State := { s with modeWritten := true, romWritten := true }

/-- The state a host operation ends in, given the state in which the micro-operation that is all of its work ended: the
micro-operation's result, if it has one, becomes the response: status 0 and its output, or status 1 and its cause
(45_memory_transactions.md R290, R292, R295, R297, R298). -/
def respondFor (out : MicroValue → Output) (s t : State) : State :=
  match t.replies.drop s.replies.length with
  | [.micro (.ok v)] => { t with replies := s.replies ++ [hostReply 0 .ok (out v)] }
  | [.micro (.err c)] => { t with replies := s.replies ++ [hostReply 1 c .none] }
  | _ => t

/-- READ's and READ_MEMORY's output. -/
def dataOutput : MicroValue → Output
  | .bytes bs => .data bs
  | _ => .none

/-- READ_CONFIG's output. -/
def configOutput : MicroValue → Output
  | .bytes bs => .config (Bytes8.ofList bs)
  | _ => .none

/-- SEARCH_ROM's output: the identifiers found and their count. -/
def searchOutput : MicroValue → Output
  | .roms rs => .search (BitVec.ofNat 8 rs.length) rs
  | _ => .none

/-- The output of an operation that has none. -/
def noOutput : MicroValue → Output := fun _ => .none

end Sys2Proof.Machine
end

