-- ==== Sys2Proof/Certificates/Slice0/Obligations.lean ====
section
/-! DEFINITION. The statements for the provers. -/

open Sys2Proof Sys2Proof.Machine

/-! ## Encoding -/

/-- Decoding the bytes of any well-formed instruction, at the level it stands at, gives it back with every operand
(30_encoding.md R100, R102, R103, R106, R108). The micro-operations' serialization is the model's own (log 4). -/
def Obligations.DecodeOfEncodeIsTheInstruction : Prop :=
  ∀ i : Instr, i.wf = true → decode i.level (encode i) = .ok i

/-- Bytes that decode are the encoding of the well-formed instruction they decode to, so no two instructions share bytes at
one level and no malformed bytes decode (30_encoding.md R111). -/
def Obligations.EncodeOfDecodeIsTheBytes : Prop :=
  ∀ (l : Level) (bytes : List Byte) (i : Instr), decode l bytes = .ok i →
    i.wf = true ∧ i.level = l ∧ encode i = bytes

/-- Words of every family. The host words are written out from 30_encoding.md R102 and the programs of 95_test_vectors.md
part 3, the command bytes from R108. The level each word stands at is the model's choice (log 3), and so are the bytes of the
micro-operations, for which R103 gives an id and operands but no bytes (log 4). The two pairs of command bytes that share a
value are told apart by where the byte stands: 0x55 and 0xF0 after a reset are the ROM commands match and search, after the
addressing sequence the function commands copy scratchpad and read memory (R108, R109). -/
def Obligations.WordsOfTheSpecDecode : Prop :=
  decode .host [0x01] = .ok .init ∧
  decode .host [0x03, 0x05] = .ok (.setMode 5) ∧
  decode .host [0x05, 0x2D, 0x11, 0x22, 0x33, 0x44, 0x55, 0x66, 0x9F]
    = .ok (.setRom ⟨0x2D, 0x11, 0x22, 0x33, 0x44, 0x55, 0x66, 0x9F⟩) ∧
  decode .host [0x08, 0x7F, 0x00, 0x02, 0x00] = .ok (.read 0x007F 2) ∧
  decode .host [0x09, 0x06, 0x00, 0x03, 0x00, 0xA1, 0xB2, 0xC3] = .ok (.write 0x0006 [0xA1, 0xB2, 0xC3]) ∧
  decode .host [0x0E, 0x78, 0x00] = .ok (.copyScratchpad 0x0078) ∧
  decode .host [0x10, 0x40] = .ok (.searchRom 64) ∧
  decode .micro [0x20] = .ok .resetStd ∧
  decode .micro [0x26, 0xCC] = .ok (.wbyteStd 0xCC) ∧
  decode (.wireRom .std) [0xCC] = .ok .cmdSkipRom ∧
  decode (.wireFunction .od) [0xAA] = .ok (.cmdReadScratchpad .od) ∧
  ∀ p : Prof,
    decode (.wireRom .std) [0x55] = .ok .cmdMatchRom ∧
    decode (.wireFunction p) [0x55] = .ok (.cmdCopyScratchpad p) ∧
    decode (.wireRom .std) [0xF0] = .ok .cmdSearchRom ∧
    decode (.wireFunction p) [0xF0] = .ok (.cmdReadMemory p)

/-! ## Steps and reset -/

/-- With a request waiting whose bytes decode, a step runs that instruction, in the state in which the request has left the
queue and its handle is the one under test. -/
def Obligations.StepRunsTheDecodedRequest : Prop :=
  ∀ (s : State) (r : Request) (rest : List Request) (i : Instr),
    s.halt = none → s.inbox = r :: rest → decode r.level r.bytes = .ok i →
    step s = exec i { s with inbox := rest, handle := r.handle }

/-- A host request that is not the encoding of a well-formed host operation has no step and no response: in particular one
whose id is 0x00 or 0x11 to 0xFF, the micro-operation ids among them, and a WRITE whose data length differs from `len`
(30_encoding.md R111). That such a request is refused with a null handle too, before R362's check, is the model's choice
(log 18). -/
def Obligations.IllegalHostRequestIsRefused : Prop :=
  ∀ (s : State) (r : Request) (rest : List Request),
    s.halt = none → s.inbox = r :: rest → r.level = .host →
    ((∀ i : Instr, i.level = .host → i.wf = true → encode i ≠ r.bytes) →
      ∃ why, step s = .refused (.illegalRequest why)) ∧
    (∀ (id : Byte) (ops : List Byte), r.bytes = id :: ops → (id.toNat = 0 ∨ 0x11 ≤ id.toNat) →
      ∃ why, step s = .refused (.illegalRequest why)) ∧
    (∀ (a0 a1 n0 n1 : Byte) (data : List Byte), r.bytes = 0x09 :: a0 :: a1 :: n0 :: n1 :: data →
      data.length ≠ n0.toNat + 256 * n1.toNat → ∃ why, step s = .refused (.illegalRequest why))

/-- A step that runs no request: after a recorded fault no later request runs (60_exceptions.md R376), a set refusal mark
stays a refusal (R377), and with no request waiting the core waits (70_reset_and_hazards.md R400). That a step on a stopped
core answers the fault or the refusal, and that waiting is a step that changes nothing, are the model's choices (log 6,
log 7, log 2). -/
def Obligations.StepWithoutARunnableRequest : Prop :=
  ∀ s : State,
    (∀ reg, s.halt = some (.unwrittenRead reg) → step s = .fault (.unwrittenRead reg)) ∧
    (s.halt = some .searchStackFull → step s = .refused .searchStackFull) ∧
    (s.halt = none → s.inbox = [] → step s = .next s)

/-- The state after reset (10_state.md R52, 70_reset_and_hazards.md R400): INITED 0, MODE and ROM unwritten, CS 0, LINE
none, no transient state, nothing emitted, nothing answered, no fault recorded. -/
def Obligations.ResetStateIsTheSpecs : Prop :=
  State.reset.inited = false ∧ State.reset.modeWritten = false ∧ State.reset.romWritten = false ∧
  State.reset.cs = false ∧ State.reset.line = none ∧ State.reset.tx = none ∧ State.reset.search = none ∧
  State.reset.acc = none ∧ State.reset.polls = none ∧ State.reset.cursor = none ∧
  State.reset.trace = [] ∧ State.reset.replies = [] ∧ State.reset.halt = none

/-- The state after reset is a state between requests (10_state.md R41, R43 to R45, R52). -/
def Obligations.ResetIsQuiet : Prop := State.reset.Quiet

/-- Every step from a state between requests leaves one: CS is 0 and no transient state survives, on every exit path
(10_state.md R41, R43, R44, R45; 60_exceptions.md R367). -/
def Obligations.StepKeepsQuiet : Prop :=
  ∀ s t : State, s.Quiet → step s = .next t → t.Quiet

/-! ## Whole-machine rules -/

/-- No transaction writes INITED, MODE or ROM: each is changed only by the operation that owns it, and no failed host
request changes any of them (10_state.md R51); CAPS never changes (R39), nor does the model's own field `unwrittenFaults`
(log 5). -/
def Obligations.OnlyControlOperationsWriteRegisters : Prop :=
  ∀ (i : Instr) (s t : State), exec i s = .next t →
    (i ≠ .init → i ≠ .deinit → t.inited = s.inited) ∧
    ((∀ m, i ≠ .setMode m) → t.mode = s.mode ∧ t.modeWritten = s.modeWritten) ∧
    ((∀ r, i ≠ .setRom r) → t.rom = s.rom ∧ t.romWritten = s.romWritten) ∧
    (∀ st c out, t.replies = s.replies ++ [hostReply st c out] → st ≠ 0 →
      t.inited = s.inited ∧ t.mode = s.mode ∧ t.modeWritten = s.modeWritten ∧ t.rom = s.rom ∧
        t.romWritten = s.romWritten) ∧
    t.caps = s.caps ∧ t.unwrittenFaults = s.unwrittenFaults

/-- Every instruction ends, whatever the environment answers: the trace is extended, each capability call in the extension
draws one answer, and either one reply of the instruction's kind is appended or none is and a stop is recorded; the queue
and the handle are untouched (10_state.md R47, R48; 60_exceptions.md R372, R376; 70_reset_and_hazards.md R426). -/
def Obligations.EveryInstructionEndsWithOneReplyOrAStop : Prop :=
  ∀ (i : Instr) (s : State), ∃ (t : State) (evs : List PortEvent),
    exec i s = .next t ∧ t.trace = s.trace ++ evs ∧ t.env = s.env.drop (callCount evs) ∧
    t.inbox = s.inbox ∧ t.handle = s.handle ∧
    ((∃ r, t.replies = s.replies ++ [r] ∧ ((∃ resp, r = .host resp) ↔ i.level = .host) ∧ t.halt = s.halt) ∨
      (t.replies = s.replies ∧ ∃ h, t.halt = some h))

/-- Every host operation emits a bounded number of events, whatever the environment answers: at most those of the longest
search, 64 passes of a longest reset (886), a byte (34) and 64 triplets (18) (70_reset_and_hazards.md R426). -/
def Obligations.HostOperationsEmitBoundedEvents : Prop :=
  ∀ (i : Instr) (s t : State), i.level = .host → exec i s = .next t →
    t.trace.length ≤ s.trace.length + 64 * (886 + 34 + 64 * 18)

/-- The events of every host operation are well bracketed: critical sections do not nest and are closed on every exit,
every line event and slot delay is inside one, the copy wait is outside (00_scope.md R13, 60_exceptions.md R368). -/
def Obligations.HostOperationsBracketTheirSections : Prop :=
  ∀ (i : Instr) (s t : State), i.level = .host → exec i s = .next t →
    ∃ evs, t.trace = s.trace ++ evs ∧ bracketed false evs = some false

/-- GET_MODE returns exactly the last value SET_MODE stored, legal or not, and GET_ROM the last identifier SET_ROM stored,
whatever other instructions run in between (10_state.md R35, R36). -/
def Obligations.GetReturnsTheLastValueSet : Prop :=
  (∀ (m : Byte) (is : List Instr) (s t u : State), s.Ready → exec (.setMode m) s = .next t →
    (∀ i ∈ is, ∀ m', i ≠ .setMode m') → execAll is t = some u → u.inited = true →
    exec .getMode u = .next (u.reply (hostReply 0 .ok (.mode m)))) ∧
  (∀ (r : Bytes8) (is : List Instr) (s t u : State), s.Ready → exec (.setRom r) s = .next t →
    (∀ i ∈ is, ∀ r', i ≠ .setRom r') → execAll is t = some u → u.inited = true →
    exec .getRom u = .next (u.reply (hostReply 0 .ok (.rom r))))

/-! ## Checks before any bus activity -/

/-- The two checks that come first. A host request with a null handle returns status 2, an empty trace and no output,
whatever its operation, and reads and writes no register (60_exceptions.md R362); else every host operation but INIT returns
status 3 with an empty trace when INITED = 0 (R363). -/
def Obligations.NullHandleThenUninitialized : Prop :=
  ∀ (i : Instr) (s : State), i.level = .host →
    (s.handle = .null → exec i s = .next (s.reply (hostReply 2 .nullHandle .none))) ∧
    (i ≠ .init → s.handle = .core → s.inited = false → exec i s = .next (s.reply (hostReply 3 .notInit .none)))

/-- The argument checks, made before MODE is read, end with status 4 and an empty trace: a read or write with
`addr + len > 128`, over unbounded naturals (00_scope.md R9, 20_memory.md R77, 60_exceptions.md R364), and a scratchpad or
copy address that is not a multiple of 8 or not below 0x80 (R77, R364). -/
def Obligations.BadArgumentsAreRejectedFirst : Prop :=
  ∀ s : State, s.Ready →
    (∀ addr len : Half, 128 < addr.toNat + len.toNat →
      exec (.read addr len) s = .next (s.reply (hostReply 4 .argRange .none)) ∧
      exec (.readMemory addr len) s = .next (s.reply (hostReply 4 .argRange .none))) ∧
    (∀ (addr : Half) (data : List Byte), 128 < addr.toNat + data.length →
      exec (.write addr data) s = .next (s.reply (hostReply 4 .argRange .none))) ∧
    (∀ (addr : Half) (data : Bytes8), addr.toNat % 8 ≠ 0 ∨ 0x80 ≤ addr.toNat →
      exec (.writeScratchpad addr data) s = .next (s.reply (hostReply 4 .argAlign .none)) ∧
      exec (.copyScratchpad addr) s = .next (s.reply (hostReply 4 .argAlign .none)))

/-- The mode-invalid status M of each addressed operation, with an empty trace, where MODE can be read and is above 5
(43_rom_addressing.md R219, 45_memory_transactions.md R273, 60_exceptions.md R361). That a MODE which nothing has written can
be read, on a core with `unwrittenFaults` clear, is the model's choice (log 5). -/
def Obligations.InvalidModeIsRejectedBeforeTheBus : Prop :=
  ∀ (s : State), s.Ready → s.modeReadable = true → 5 < s.mode.toNat →
    (∀ addr len : Half, addr.toNat + len.toNat ≤ 128 →
      exec (.read addr len) s = .next (s.reply (hostReply 5 .modeInvalid .none)) ∧
      exec (.readMemory addr len) s = .next (s.reply (hostReply 5 .modeInvalid .none))) ∧
    (∀ (addr : Half) (data : List Byte), addr.toNat + data.length ≤ 128 →
      exec (.write addr data) s = .next (s.reply (hostReply 5 .modeInvalid .none))) ∧
    exec .readConfig s = .next (s.reply (hostReply 4 .modeInvalid .none)) ∧
    (∀ block, exec (.writeConfig block) s = .next (s.reply (hostReply 4 .modeInvalid .none))) ∧
    exec .readScratchpad s = .next (s.reply (hostReply 4 .modeInvalid .none)) ∧
    (∀ (addr : Half) (data : Bytes8), addr.toNat % 8 = 0 → addr.toNat < 0x80 →
      exec (.writeScratchpad addr data) s = .next (s.reply (hostReply 6 .modeInvalid .none)) ∧
      exec (.copyScratchpad addr) s = .next (s.reply (hostReply 6 .modeInvalid .none)))

/-- Where a read of an unwritten register is a fault (a core with `unwrittenFaults` set: log 5), a request that reads MODE
while it is unwritten stops at that read: no event, no response, the fault recorded. The reads of MODE are GET_MODE and the
mode test of every addressed operation; the micro-operations that run ADDRESS read it too
(60_exceptions.md R376, 45_memory_transactions.md R273). That the meaning records the fault is log 6. -/
def Obligations.UnwrittenModeIsAFault : Prop :=
  ∀ (s : State), s.Ready → s.unwrittenFaults = true → s.modeWritten = false →
    exec .getMode s = .next { s with halt := some (.unwrittenRead .mode) } ∧
    (∀ addr len : Half, addr.toNat + len.toNat ≤ 128 →
      exec (.read addr len) s = .next { s with halt := some (.unwrittenRead .mode) } ∧
      exec (.readMemory addr len) s = .next { s with halt := some (.unwrittenRead .mode) }) ∧
    (∀ (addr : Half) (data : List Byte), addr.toNat + data.length ≤ 128 →
      exec (.write addr data) s = .next { s with halt := some (.unwrittenRead .mode) }) ∧
    exec .readConfig s = .next { s with halt := some (.unwrittenRead .mode) } ∧
    (∀ block, exec (.writeConfig block) s = .next { s with halt := some (.unwrittenRead .mode) }) ∧
    exec .readScratchpad s = .next { s with halt := some (.unwrittenRead .mode) } ∧
    (∀ (addr : Half) (data : Bytes8), addr.toNat % 8 = 0 → addr.toNat < 0x80 →
      exec (.writeScratchpad addr data) s = .next { s with halt := some (.unwrittenRead .mode) } ∧
      exec (.copyScratchpad addr) s = .next { s with halt := some (.unwrittenRead .mode) }) ∧
    exec .address s = .next { s with halt := some (.unwrittenRead .mode) }

/-- Where a read of an unwritten register is a fault (log 5), with ROM unwritten, ROM_MATCH and ADDRESS in modes 2 and 3 stop
at the first read of ROM, after the reset and the command byte have been emitted: their events stay in the trace, no response
is returned, the fault is recorded (log 6) (60_exceptions.md R376, 43_rom_addressing.md R212, R220). -/
def Obligations.UnwrittenRomIsAFaultAfterTheCommand : Prop :=
  ∀ (s : State) (k1 k2 : Nat) (as rest : List Answer), s.Quiet → s.unwrittenFaults = true →
    s.romWritten = false → PollsWithin .std k1 k2 → s.env = as ++ rest → fits (resetPresent k1 k2 ++ bytesWritten 1) as = true →
    (s.modeWritten = true → s.mode = 2 →
      exec .address s = .next { s.ran (resetTrace .std (k1 + k2) ++ byteWriteTrace .std 0x55) rest with
        halt := some (.unwrittenRead .rom) }) ∧
    (s.modeWritten = true → s.mode = 3 →
      exec .address s = .next { s.ran (resetTrace .std (k1 + k2) ++ byteWriteTrace .std 0x69) rest with
        halt := some (.unwrittenRead .rom) }) ∧
    (s.Ready →
      exec .romMatch s = .next { s.ran (resetTrace .std (k1 + k2) ++ byteWriteTrace .std 0x69) rest with
        halt := some (.unwrittenRead .rom) })

/-- On a core on which a read of an unwritten register is no fault, as after reset, whether MODE and ROM have been written
makes no difference to any instruction: each reads the value they hold, and emits, answers and changes the same. That the
registers hold a value at reset is the model's choice (log 5). -/
def Obligations.UnwrittenRegistersReadTheValueTheyHold : Prop :=
  ∀ (i : Instr) (s : State), s.unwrittenFaults = false →
    ∃ t : State, exec i s = .next t ∧ exec i s.allWritten = .next t.allWritten

/-! ## Handle control -/

/-- INIT (46_handle_control.md R331): null handle, missing capability, failing and succeeding `BusInit`; INITED itself is
not tested. -/
def Obligations.InitChecksThenInitializesTheBus : Prop :=
  ∀ s : State,
    (s.handle = .null → exec .init s = .next (s.reply (hostReply 2 .nullHandle .none))) ∧
    (s.handle = .core → s.caps ≠ ⟨true, true, true, true, true, true, true, true, true⟩ →
      exec .init s = .next (s.reply (hostReply 3 .missingCap .none))) ∧
    (s.handle = .core → s.caps = ⟨true, true, true, true, true, true, true, true, true⟩ →
      ((s.emit .busInit).answer.status ≠ 0 →
        exec .init s = .next ((s.called .busInit).reply (hostReply 1 .busInitFail .none))) ∧
      ((s.emit .busInit).answer.status = 0 →
        exec .init s = .next ({ s.called .busInit with inited := true }.reply (hostReply 0 .ok .none))))

/-- DEINIT (46_handle_control.md R332). MODE and ROM keep their values. -/
def Obligations.DeinitClearsInitedOnSuccess : Prop :=
  ∀ s : State,
    (s.handle = .null → exec .deinit s = .next (s.reply (hostReply 2 .nullHandle .none))) ∧
    (s.handle = .core → s.inited = false → exec .deinit s = .next (s.reply (hostReply 3 .notInit .none))) ∧
    (s.Ready →
      ((s.emit .busDeinit).answer.status ≠ 0 →
        exec .deinit s = .next ((s.called .busDeinit).reply (hostReply 1 .busDeinitFail .none))) ∧
      ((s.emit .busDeinit).answer.status = 0 →
        exec .deinit s = .next ({ s.called .busDeinit with inited := false }.reply (hostReply 0 .ok .none))))

/-- SET_MODE (46_handle_control.md R333) stores its operand unchecked and SET_ROM (R335) its identifier; GET_MODE (R334) and
GET_ROM (R336) return the register. Where it is unwritten they return the value it holds at reset (the model's choice,
log 5), or, on a core with `unwrittenFaults` set, record the fault of 60_exceptions.md R376 and return no response (log 6).
The checks of the handle and of INITED come first in all four (R362, R363). Nothing else changes. -/
def Obligations.SetStoresTheOperandAndGetReadsTheRegister : Prop :=
  ∀ s : State,
    (s.Ready →
      (∀ m, exec (.setMode m) s = .next ({ s with mode := m, modeWritten := true }.reply (hostReply 0 .ok .none))) ∧
      (∀ r, exec (.setRom r) s = .next ({ s with rom := r, romWritten := true }.reply (hostReply 0 .ok .none))) ∧
      (s.modeWritten = true ∨ s.unwrittenFaults = false →
        exec .getMode s = .next (s.reply (hostReply 0 .ok (.mode s.mode)))) ∧
      (s.modeWritten = false → s.unwrittenFaults = true →
        exec .getMode s = .next { s with halt := some (.unwrittenRead .mode) }) ∧
      (s.romWritten = true ∨ s.unwrittenFaults = false →
        exec .getRom s = .next (s.reply (hostReply 0 .ok (.rom s.rom)))) ∧
      (s.romWritten = false → s.unwrittenFaults = true →
        exec .getRom s = .next { s with halt := some (.unwrittenRead .rom) })) ∧
    (∀ i : Instr, (i = .getMode ∨ i = .getRom ∨ (∃ m, i = .setMode m) ∨ ∃ r, i = .setRom r) →
      (s.handle = .null → exec i s = .next (s.reply (hostReply 2 .nullHandle .none))) ∧
      (s.handle = .core → s.inited = false → exec i s = .next (s.reply (hostReply 3 .notInit .none))))

/-! ## Bits -/

/-- WBIT_STD (40_bit_transport.md R144) and WBIT_OD (R145): the slot of the profile, LINE released; at the first `BusWrite`
that fails the sequence stops with ERR(TRANSPORT), and a failure of the second leaves LINE low. Everything else is
unchanged. -/
def Obligations.WriteBitEmitsItsSlot : Prop :=
  ∀ (p : Prof) (i : Bool → Instr), (p = .std ∧ i = .wbitStd ∨ p = .od ∧ i = .wbitOd) →
    ∀ (s : State) (b : Bool) (a1 : Answer) (rest : List Answer), s.env = a1 :: rest →
    (a1.status ≠ 0 →
      exec (i b) s = .next ({ s with trace := s.trace ++ [PortEvent.w false], env := rest }.reply (.micro (.err .transport)))) ∧
    (a1.status = 0 → ∀ (a2 : Answer) (rest2 : List Answer), rest = a2 :: rest2 →
      (a2.status ≠ 0 →
        exec (i b) s = .next ({ s with
          trace := s.trace ++ ([.w false, .dus (if b then p.timing.tW1L else p.timing.tW0L), .w true] : List PortEvent)
          env := rest2
          line := some false }.reply (.micro (.err .transport)))) ∧
      (a2.status = 0 →
        exec (i b) s = .next ({ s with
          trace := s.trace ++ writeSlotTrace p.timing b
          env := rest2
          line := some true }.reply microOk)))

/-- RBIT_STD (40_bit_transport.md R146) and RBIT_OD (R147): the slot of the profile, the result the sample as the environment
answers it (R151); a failing `BusRead` ends the slot without the recovery delay and its sample is discarded. -/
def Obligations.ReadBitReturnsTheSample : Prop :=
  ∀ (p : Prof) (i : Instr), (p = .std ∧ i = .rbitStd ∨ p = .od ∧ i = .rbitOd) →
    ∀ (s : State) (a1 : Answer) (rest : List Answer), s.env = a1 :: rest →
    (a1.status ≠ 0 →
      exec i s = .next ({ s with trace := s.trace ++ [PortEvent.w false], env := rest }.reply (.micro (.err .transport)))) ∧
    (a1.status = 0 → ∀ (a2 : Answer) (rest2 : List Answer), rest = a2 :: rest2 →
      (a2.status ≠ 0 →
        exec i s = .next ({ s with
          trace := s.trace ++ ([.w false, .dus p.timing.tRL, .w true] : List PortEvent)
          env := rest2
          line := some false }.reply (.micro (.err .transport)))) ∧
      (a2.status = 0 → ∀ (a3 : Answer) (rest3 : List Answer), rest2 = a3 :: rest3 →
        (a3.status ≠ 0 →
          exec i s = .next ({ s with
            trace := s.trace ++ ([.w false, .dus p.timing.tRL, .w true, .dus p.timing.tRS, .r] : List PortEvent)
            env := rest3
            line := some true }.reply (.micro (.err .transport)))) ∧
        (a3.status = 0 →
          exec i s = .next ({ s with
            trace := s.trace ++ readSlotTrace p.timing
            env := rest3
            line := some true }.reply (.micro (.ok (.bit a3.sample)))))))

/-- The bit primitives emit no interrupt event and do not touch CS, and have exactly the outcomes OK and ERR(TRANSPORT),
whatever the environment answers (40_bit_transport.md R148, R149). -/
def Obligations.BitPrimitivesLeaveInterruptsAlone : Prop :=
  ∀ (i : Instr) (s : State), (i = .rbitStd ∨ i = .rbitOd ∨ ∃ b, i = .wbitStd b ∨ i = .wbitOd b) →
    ∃ (t : State) (evs : List PortEvent), exec i s = .next t ∧ t.trace = s.trace ++ evs ∧ t.cs = s.cs ∧
      (∀ e ∈ evs, e.isIrq = false) ∧
      ((∃ v, t.replies = s.replies ++ [.micro (.ok v)]) ∨ t.replies = s.replies ++ [.micro (.err .transport)])

/-! ## Bytes -/

/-- WBYTE_STD (41_byte_transport.md R171) and WBYTE_OD (R172), with every status 0: one critical section around the eight
write slots, least significant bit first. -/
def Obligations.WriteByteSendsLsbFirst : Prop :=
  ∀ (p : Prof) (i : Byte → Instr), (p = .std ∧ i = .wbyteStd ∨ p = .od ∧ i = .wbyteOd) →
    ∀ (s : State) (x : Byte) (as rest : List Answer), s.env = as ++ rest → fits (bytesWritten 1) as = true →
    exec (i x) s = .next ((s.ran (byteWriteTrace p x) rest).reply microOk)

/-- A byte operation whose slot `n` fails ends with ERR(TRANSPORT), after bits 0 to n-1 were sent or sampled: the failing
slot is left where it failed and the critical section is closed (41_byte_transport.md R170). Of a byte send the first or the
second `BusWrite` of the slot fails (R171, R172); of a byte read the first or the second `BusWrite` or the `BusRead`, and the
shift register with the bits sampled so far is discarded (R174, R175). -/
def Obligations.ByteOperationsStopAtTheFirstFailure : Prop :=
  (∀ (p : Prof) (i : Byte → Instr), (p = .std ∧ i = .wbyteStd ∨ p = .od ∧ i = .wbyteOd) →
    ∀ (s : State) (x : Byte) (n : Nat) (as : List Answer) (a : Answer) (rest : List Answer), n < 8 →
    fits (slotsWritten n) as = true → a.status ≠ 0 →
    (s.env = as ++ a :: rest →
      exec (i x) s = .next ({ s with
        trace := s.trace ++ (PortEvent.irqOff :: (((lsbFirst x).take n).flatMap (writeSlotTrace p.timing) ++ [PortEvent.w false, PortEvent.irqOn]))
        env := rest
        line := if n = 0 then s.line else some true
        cs := false }.reply (.micro (.err .transport)))) ∧
    (∀ a0 : Answer, a0.status = 0 → s.env = as ++ a0 :: a :: rest →
      exec (i x) s = .next ({ s with
        trace := s.trace ++ (PortEvent.irqOff :: (((lsbFirst x).take n).flatMap (writeSlotTrace p.timing)
          ++ ([.w false, .dus (if x.getLsbD n then p.timing.tW1L else p.timing.tW0L), .w true, .irqOn] : List PortEvent)))
        env := rest
        line := some false
        cs := false }.reply (.micro (.err .transport))))) ∧
  (∀ (p : Prof) (i : Instr), (p = .std ∧ i = .rbyteStd ∨ p = .od ∧ i = .rbyteOd) →
    ∀ (s : State) (vs : List Bool) (as : List Answer) (a : Answer) (rest : List Answer), vs.length < 8 →
    fits (vs.flatMap slotRead) as = true → a.status ≠ 0 →
    ∀ slots : List PortEvent, slots = vs.flatMap (fun _ => readSlotTrace p.timing) →
    (s.env = as ++ a :: rest →
      exec i s = .next ({ s with
        trace := s.trace ++ (PortEvent.irqOff :: (slots ++ [PortEvent.w false, PortEvent.irqOn]))
        env := rest
        line := if vs = [] then s.line else some true
        cs := false
        acc := none }.reply (.micro (.err .transport)))) ∧
    (∀ a0 : Answer, a0.status = 0 → s.env = as ++ a0 :: a :: rest →
      exec i s = .next ({ s with
        trace := s.trace ++ (PortEvent.irqOff :: (slots ++ ([.w false, .dus p.timing.tRL, .w true, .irqOn] : List PortEvent)))
        env := rest
        line := some false
        cs := false
        acc := none }.reply (.micro (.err .transport)))) ∧
    (∀ a0 a1 : Answer, a0.status = 0 → a1.status = 0 → s.env = as ++ a0 :: a1 :: a :: rest →
      exec i s = .next ({ s with
        trace := s.trace ++ (PortEvent.irqOff :: (slots
          ++ ([.w false, .dus p.timing.tRL, .w true, .dus p.timing.tRS, .r, .irqOn] : List PortEvent)))
        env := rest
        line := some true
        cs := false
        acc := none }.reply (.micro (.err .transport)))))

/-- RBYTE_STD (41_byte_transport.md R174) and RBYTE_OD (R175), with every status 0: the bit sampled in slot i is bit i of the
result (R173). -/
def Obligations.ReadByteAssemblesLsbFirst : Prop :=
  ∀ (p : Prof) (i : Instr), (p = .std ∧ i = .rbyteStd ∨ p = .od ∧ i = .rbyteOd) →
    ∀ (s : State) (x : Byte) (as rest : List Answer), s.acc = none → s.env = as ++ rest →
    fits (bytesRead [x]) as = true →
    exec i s = .next ((s.ran (byteReadTrace p) rest).reply (.micro (.ok (.byte x))))

/-- Each byte operation and each command byte is exactly one critical section on every path: its events begin with IRQ_OFF,
end with IRQ_ON and hold no other interrupt event, whatever the environment answers (41_byte_transport.md R170). That a
command byte's row is its emission as one byte operation is the model's choice (log 11). -/
def Obligations.EveryByteIsOneCriticalSection : Prop :=
  ∀ (i : Instr) (s : State),
    (i = .rbyteStd ∨ i = .rbyteOd ∨ (∃ x, i = .wbyteStd x ∨ i = .wbyteOd x) ∨
      (∃ p, i.level = .wireRom p ∨ i.level = .wireFunction p)) →
    ∃ (t : State) (mid : List PortEvent), exec i s = .next t ∧
      t.trace = s.trace ++ (PortEvent.irqOff :: (mid ++ [PortEvent.irqOn])) ∧ (∀ e ∈ mid, e.isIrq = false) ∧ t.cs = false

/-- Each wire command byte is sent, LSB first and in the profile of its place in the frame, as the byte 30_encoding.md R108
gives it (R105, R107, R109). That this emission is the row's whole meaning is the model's reading (log 11). -/
def Obligations.CommandBytesAreSentAsBytes : Prop :=
  ∀ (p : Prof) (i : Instr) (q : Prof) (x : Byte),
    (i, q, x) ∈ [(.cmdSkipRom, .std, 0xCC), (.cmdOdSkipRom, .std, 0x3C), (.cmdMatchRom, .std, 0x55),
      (.cmdOdMatchRom, .std, 0x69), (.cmdResume p, p, 0xA5), (.cmdSearchRom, .std, 0xF0),
      (.cmdWriteScratchpad p, p, 0x0F), (.cmdReadScratchpad p, p, 0xAA), (.cmdCopyScratchpad p, p, 0x55),
      (.cmdReadMemory p, p, (0xF0 : Byte))] →
    ∀ (s : State) (as rest : List Answer), s.env = as ++ rest → fits (bytesWritten 1) as = true →
    exec i s = .next ((s.ran (byteWriteTrace q x) rest).reply microOk)

/-! ## Bus reset -/

/-- RESET_STD (42_reset_presence.md R191) and RESET_OD (R192) succeed when the `k1`-th sample of phase 1 is the first low one
and the `k2`-th of phase 2 the first high one, the last permitted polls included (R190, R193). -/
def Obligations.ResetDetectsPresenceWithinItsBudget : Prop :=
  ∀ (p : Prof) (i : Instr), (p = .std ∧ i = .resetStd ∨ p = .od ∧ i = .resetOd) →
    ∀ (s : State) (k1 k2 : Nat) (as rest : List Answer), s.polls = none → PollsWithin p k1 k2 →
    s.env = as ++ rest → fits (resetPresent k1 k2) as = true →
    exec i s = .next ((s.ran (resetTrace p (k1 + k2)) rest).reply microOk)

/-- The two ways a reset fails, each with its critical section closed and nothing latched (42_reset_presence.md R190, R193,
R194). No presence: a line that is never low in phase 1, or never high in phase 2, uses up the poll budget and ends with
ERR(NO_PRESENCE). A failing call: where the first or the second `BusWrite`, or any `BusRead` of either phase, fails, the reset
ends with ERR(TRANSPORT) and exactly the events up to that call. Its calls in order are the two writes, the `k1` samples of
phase 1 and the `k2` of phase 2. -/
def Obligations.ResetReportsNoPresenceAndTransportFailure : Prop :=
  ∀ (p : Prof) (i : Instr), (p = .std ∧ i = .resetStd ∨ p = .od ∧ i = .resetOd) →
    ∀ (s : State) (as rest : List Answer), s.polls = none →
    (s.env = as ++ rest →
      fits (([none, none] : List Wanted) ++ List.replicate p.timing.nPDL (some true)) as = true →
      exec i s = .next ((s.ran (resetTrace p p.timing.nPDL) rest).reply (.micro (.err .noPresence)))) ∧
    (∀ k1, s.env = as ++ rest → 1 ≤ k1 → k1 ≤ p.timing.nPDL →
      fits (([none, none] : List Wanted) ++ List.replicate (k1 - 1) (some true) ++ [some false]
        ++ List.replicate p.timing.nPDH (some false)) as = true →
      exec i s = .next ((s.ran (resetTrace p (k1 + p.timing.nPDH)) rest).reply (.micro (.err .noPresence)))) ∧
    (∀ k1 k2, PollsWithin p k1 k2 →
      FailingCallEnds s (resetPresent k1 k2) (resetTrace p (k1 + k2)) i (.micro (.err .transport)))

/-- Whatever the environment answers, RESET_STD emits at most 886 events and RESET_OD at most 86, each leaves CS at 0, and
each ends with OK, ERR(TRANSPORT) or ERR(NO_PRESENCE) (42_reset_presence.md R190, R197). -/
def Obligations.ResetEmitsBoundedEvents : Prop :=
  ∀ (i : Instr) (n : Nat) (s : State), (i = .resetStd ∧ n = 886 ∨ i = .resetOd ∧ n = 86) →
    ∃ t, exec i s = .next t ∧ t.trace.length ≤ s.trace.length + n ∧ t.cs = false ∧
      (t.replies = s.replies ++ [microOk] ∨ t.replies = s.replies ++ [.micro (.err .transport)] ∨
        t.replies = s.replies ++ [.micro (.err .noPresence)])

/-- A reset is the first step of every addressing sequence, of ROM_MATCH and of every search, and an addressing sequence the
first of every memory transaction; each ends at once with the error of that step: exactly its events and its cause, which a
host operation answers with status 1 (42_reset_presence.md R195, 43_rom_addressing.md R221, 44_rom_search.md R250,
45_memory_transactions.md R274). -/
def Obligations.FailedFirstStepEndsTheSequence : Prop :=
  ∀ (s t : State) (c : Cause), s.Quiet →
    (exec .resetStd s = .next (t.reply (.micro (.err c))) →
      (s.ModeLegal → s.mode ≠ 5 → exec .address s = .next (t.reply (.micro (.err c)))) ∧
      (s.Ready → exec .romMatch s = .next (t.reply (hostReply 1 c .none))) ∧
      (∀ n : Byte, s.Ready → 1 ≤ n.toNat → n.toNat ≤ 64 →
        exec (.searchRom n) s = .next (t.reply (hostReply 1 c .none))) ∧
      (∀ n cmd : Byte, 1 ≤ n.toNat → n.toNat ≤ 64 →
        exec (.searchEngine n cmd) s = .next (t.reply (.micro (.err c))))) ∧
    (exec .resetOd s = .next (t.reply (.micro (.err c))) →
      s.modeReadable = true → s.mode = 5 → exec .address s = .next (t.reply (.micro (.err c)))) ∧
    (exec .address s = .next (t.reply (.micro (.err c))) → s.ModeLegal →
      (∀ addr len : Half, exec (.memRead addr len) s = .next (t.reply (.micro (.err c)))) ∧
      (∀ (addr : Half) (data : Bytes8), exec (.pageWrite addr data) s = .next (t.reply (.micro (.err c)))) ∧
      (s.Ready →
        (∀ (addr : Half) (data : Bytes8), addr.toNat % 8 = 0 → addr.toNat < 0x80 →
          exec (.writeScratchpad addr data) s = .next (t.reply (hostReply 1 c .none)) ∧
          exec (.copyScratchpad addr) s = .next (t.reply (hostReply 1 c .none))) ∧
        exec .readScratchpad s = .next (t.reply (hostReply 1 c .none))))

/-! ## ROM addressing -/

/-- ADDRESS in each of the six modes, with every status 0 and a device present: the reset, the command byte and the ROM bytes
of the mode, each in its profile, and the function-phase profile returned (43_rom_addressing.md R211 to R218,
30_encoding.md R105). -/
def Obligations.AddressSelectsByMode : Prop :=
  ∀ (s : State) (k1 k2 : Nat) (as rest : List Answer), s.Quiet → s.Addressable k1 k2 →
    s.env = as ++ rest → fits (addressed s.mode k1 k2) as = true →
    exec .address s = .next ((s.ran (addressTrace s.mode s.rom (k1 + k2)) rest).reply
      (.micro (.ok (.profile (modeFunction s.mode)))))

/-- ROM_MATCH (43_rom_addressing.md R220): standard reset, the overdrive-match command in STD, the eight ROM bytes in OD, and
no function command. -/
def Obligations.RomMatchSendsTheOverdriveMatch : Prop :=
  ∀ (s : State) (k1 k2 : Nat) (as rest : List Answer), s.Quiet → s.Ready → s.romReadable = true →
    PollsWithin .std k1 k2 → s.env = as ++ rest → fits (resetPresent k1 k2 ++ bytesWritten 9) as = true →
    exec .romMatch s = .next ((s.ran (resetTrace .std (k1 + k2) ++ byteWriteTrace .std 0x69
      ++ bytesWriteTrace .od s.rom.toList) rest).reply (hostReply 0 .ok .none))

/-- ROM_MATCH does not read MODE, and the search reads neither MODE nor ROM: what they emit and answer is the same whatever
those registers hold, and they leave them (43_rom_addressing.md R220, 44_rom_search.md R240, R242, R251). -/
def Obligations.SearchAndRomMatchIgnoreMode : Prop :=
  ∀ (s : State) (m : Byte) (mw : Bool) (r : Bytes8) (rw : Bool),
    (∀ n : Byte, ∃ t, exec (.searchRom n) s = .next t ∧
      exec (.searchRom n) (s.withModeRom m mw r rw) = .next (t.withModeRom m mw r rw)) ∧
    (∀ n cmd : Byte, ∃ t, exec (.searchEngine n cmd) s = .next t ∧
      exec (.searchEngine n cmd) (s.withModeRom m mw r rw) = .next (t.withModeRom m mw r rw)) ∧
    (∃ t, exec .romMatch s = .next t ∧
      exec .romMatch (s.withModeRom m mw s.rom s.romWritten) = .next (t.withModeRom m mw s.rom s.romWritten))

/-! ## ROM search -/

/-- SEARCH_ROM checks its capacity before any bus activity, and capacity 0 finds nothing without any
(44_rom_search.md R240, R249). The maximum 64 is the model's configuration (log 17). -/
def Obligations.SearchChecksItsCapacity : Prop :=
  ∀ (n : Byte) (s : State), s.Ready →
    (64 < n.toNat → exec (.searchRom n) s = .next (s.reply (hostReply 4 .argRange .none))) ∧
    (n = 0 → exec (.searchRom n) s = .next (s.reply (hostReply 0 .ok (.search 0 []))))

/-- TRIPLET on a pair of samples that is not (1, 1), with the direction and the stack of 44_rom_search.md R244 and R245: a
forced pair takes the bit and leaves the stack; a discrepancy above the top is pushed and takes 0, one below the top replays
the previous pass, one at the top is popped and takes 1. The stack is one a search builds (R246). That the first slot
carries the bit and the second its complement is general knowledge (log 23). -/
def Obligations.TripletDecidesTheDirection : Prop :=
  ∀ (s : State) (q : Search) (p : Byte) (b c : Bool) (as rest : List Answer),
    s.search = some q → StackIncreasing q.stk → 1 ≤ p.toNat → p.toNat ≤ 64 →
    s.env = as ++ rest → fits (tripletAnswers b c) as = true → ¬(b = true ∧ c = true) →
    ∃ (d : Bool) (stk : List Nat),
      exec (.triplet p) s = .next ({ s.ran (tripletTrace d) rest with
        search := some { q with stk := stk } }.reply (.micro (.ok (.bit d)))) ∧
      (b = false → c = true → d = false ∧ stk = q.stk) ∧
      (b = true → c = false → d = true ∧ stk = q.stk) ∧
      (b = false → c = false →
        (q.stk.getLastD 0 < p.toNat → d = false ∧ stk = q.stk ++ [p.toNat]) ∧
        (p.toNat < q.stk.getLastD 0 → d = romBit q.prev p.toNat ∧ stk = q.stk) ∧
        (p.toNat = q.stk.getLastD 0 → d = true ∧ stk = q.stk.dropLast))

/-- TRIPLET on the pair (1, 1): NONE, two read slots, no write slot, the search state unchanged
(44_rom_search.md R243, R247). -/
def Obligations.TripletWithoutResponseWritesNothing : Prop :=
  ∀ (s : State) (p : Byte) (as rest : List Answer),
    s.env = as ++ rest → fits (slotRead true ++ slotRead true) as = true →
    exec (.triplet p) s = .next ((s.ran tripletNoneTrace rest).reply (.micro .none))

/-- A triplet keeps the discrepancy stack strictly increasing within positions 1 to 64, so at most 64 entries, and never
overflows it, whatever the environment answers (44_rom_search.md R246). -/
def Obligations.TripletKeepsTheStackIncreasing : Prop :=
  ∀ (s : State) (q : Search) (p : Byte), s.search = some q → StackIncreasing q.stk → 1 ≤ p.toNat → p.toNat ≤ 64 →
    ∃ (t : State) (q' : Search), exec (.triplet p) s = .next t ∧ t.search = some q' ∧
      StackIncreasing q'.stk ∧ q'.stk.length ≤ 64 ∧ t.halt = s.halt

/-- No search overflows the discrepancy stack of 64 positions: every SEARCH_ROM, and every SEARCH_ENGINE of any command,
ends with a reply and records no refusal, whatever the environment answers (44_rom_search.md R246, R253). The stack's
maximum, 64, is the model's configuration (log 17). -/
def Obligations.SearchNeverOverflowsTheStack : Prop :=
  ∀ s : State,
    (∀ n : Byte, ∃ t r, exec (.searchRom n) s = .next t ∧ t.replies = s.replies ++ [r] ∧ t.halt = s.halt) ∧
    (∀ n cmd : Byte, ∃ t r, exec (.searchEngine n cmd) s = .next t ∧ t.replies = s.replies ++ [r] ∧ t.halt = s.halt)

/-- A successful search returns as many identifiers as it counts, and at most the capacity
(44_rom_search.md R240, R248). -/
def Obligations.SearchCountIsAtMostTheCapacity : Prop :=
  ∀ (n : Byte) (s t : State) (st count : Byte) (c : Cause) (roms : List Bytes8),
    exec (.searchRom n) s = .next t → t.replies = s.replies ++ [hostReply st c (.search count roms)] →
    st = 0 ∧ c = .ok ∧ count.toNat = roms.length ∧ roms.length ≤ n.toNat

/-- One device on the line: every pair is forced by its bit, one pass returns exactly its identifier, with the pass's events
(44_rom_search.md R241, R244, R248). -/
def Obligations.SearchFindsASingleDevice : Prop :=
  ∀ (s : State) (r : Bytes8) (n : Byte) (k1 k2 : Nat) (as rest : List Answer),
    s.Quiet → 1 ≤ n.toNat → n.toNat ≤ 64 → PollsWithin .std k1 k2 →
    s.env = as ++ rest → fits (singlePass r k1 k2) as = true →
    (s.Ready → exec (.searchRom n) s = .next ((s.ran (singlePassTrace r 0xF0 (k1 + k2)) rest).reply
      (hostReply 0 .ok (.search 1 [r])))) ∧
    (∀ cmd, exec (.searchEngine n cmd) s = .next ((s.ran (singlePassTrace r cmd (k1 + k2)) rest).reply
      (.micro (.ok (.roms [r])))))

/-- A fixed population of devices, ascending by identifier from bit position 1 on, is enumerated whole and in that order,
one pass for each, up to the capacity: in the pass that finds `r`, the devices that agree with `r` so far drive the pair, each
triplet writes back the bit of `r`, and a capacity below the number of devices truncates without error
(44_rom_search.md R241, R244, R245, R248; R252 and R253, which the spec marks as its own inferences). -/
def Obligations.SearchFindsEveryDeviceInOrder : Prop :=
  ∀ (s : State) (roms : List Bytes8) (n : Byte) (polls : List (Nat × Nat)) (as rest : List Answer),
    s.Quiet → 1 ≤ n.toNat → n.toNat ≤ 64 → roms ≠ [] → RomsAscending roms → polls.length = min n.toNat roms.length →
    (∀ k ∈ polls, PollsWithin .std k.1 k.2) → s.env = as ++ rest →
    fits ((roms.zip polls).flatMap fun x => populationPass roms x.1 x.2.1 x.2.2) as = true →
    (s.Ready → exec (.searchRom n) s = .next
      ((s.ran ((roms.zip polls).flatMap fun x => singlePassTrace x.1 0xF0 (x.2.1 + x.2.2)) rest).reply
        (hostReply 0 .ok (.search (BitVec.ofNat 8 (min n.toNat roms.length)) (roms.take n.toNat))))) ∧
    (∀ cmd, exec (.searchEngine n cmd) s = .next
      ((s.ran ((roms.zip polls).flatMap fun x => singlePassTrace x.1 cmd (x.2.1 + x.2.2)) rest).reply
        (.micro (.ok (.roms (roms.take n.toNat))))))

/-- The pair (1, 1) at any position of any pass ends the search at once with success: it returns the identifiers of the passes
completed before, writes nothing back at that position and discards the candidate (44_rom_search.md R247). The passes before
are those of a fixed population; the last follows the population's next device up to position `p`, where no device responds. -/
def Obligations.SearchEndsWhenNoDeviceResponds : Prop :=
  ∀ (s : State) (roms : List Bytes8) (r : Bytes8) (n : Byte) (polls : List (Nat × Nat)) (k1 k2 p : Nat)
    (as rest : List Answer),
    s.Quiet → n.toNat ≤ 64 → polls.length < n.toNat → RomsAscending roms → roms[polls.length]? = some r →
    (∀ k ∈ polls, PollsWithin .std k.1 k.2) → PollsWithin .std k1 k2 → 1 ≤ p → p ≤ 64 → s.env = as ++ rest →
    fits (populationPasses roms polls ++ populationPrefix roms r k1 k2 (p - 1) ++ slotRead true ++ slotRead true) as = true →
    (s.Ready → exec (.searchRom n) s = .next
      ((s.ran (passesTrace roms 0xF0 polls ++ passPrefixTrace r 0xF0 (k1 + k2) (p - 1) ++ tripletNoneTrace) rest).reply
        (hostReply 0 .ok (.search (BitVec.ofNat 8 polls.length) (roms.take polls.length))))) ∧
    (∀ cmd, exec (.searchEngine n cmd) s = .next
      ((s.ran (passesTrace roms cmd polls ++ passPrefixTrace r cmd (k1 + k2) (p - 1) ++ tripletNoneTrace) rest).reply
        (.micro (.ok (.roms (roms.take polls.length))))))

/-- A failure anywhere in the search ends it with its cause, and the identifiers already found are not returned
(44_rom_search.md R250). SEARCH_ROM is SEARCH_ENGINE with the search command, an error of it becoming status 1 with its cause
and no identifiers (R240). After completed passes over a fixed population, a reset that fails with any cause ends the search
with its cause; so does, with TRANSPORT, a failing call anywhere in the passes up to the next: in a reset, a command byte or a slot.
Either way the events are exactly those up to the failure. -/
def Obligations.SearchFailureReturnsNoIdentifiers : Prop :=
  ∀ (s : State) (n : Byte), s.Quiet → n.toNat ≤ 64 →
    (s.Ready → ∃ t, exec (.searchEngine n 0xF0) s = .next t ∧
      exec (.searchRom n) s = .next (respondFor searchOutput s t)) ∧
    ∀ (roms : List Bytes8) (r : Bytes8) (polls : List (Nat × Nat)) (cmd : Byte),
      polls.length < n.toNat → RomsAscending roms → roms[polls.length]? = some r → (∀ k ∈ polls, PollsWithin .std k.1 k.2) →
      (∀ (as rest : List Answer) (t : State) (c : Cause), polls ≠ [] → s.env = as ++ rest →
        fits (populationPasses roms polls) as = true →
        exec .resetStd (s.ran (passesTrace roms cmd polls) rest) = .next (t.reply (.micro (.err c))) →
        exec (.searchEngine n cmd) s = .next (t.reply (.micro (.err c))) ∧
        (s.Ready → cmd = 0xF0 → exec (.searchRom n) s = .next (t.reply (hostReply 1 c .none)))) ∧
      (∀ k1 k2, PollsWithin .std k1 k2 →
        ∀ (ws : List Wanted) (evs : List PortEvent), ws = populationPasses roms polls ++ populationPass roms r k1 k2 →
          evs = passesTrace roms cmd polls ++ singlePassTrace r cmd (k1 + k2) →
        FailingCallEnds s ws evs (.searchEngine n cmd) (.micro (.err .transport)) ∧
        (s.Ready → cmd = 0xF0 → FailingCallEnds s ws evs (.searchRom n) (hostReply 1 .transport .none)))

/-! ## CRC-16 -/

/-- CRC-16/ARC on the messages of 95_test_vectors.md V-C1, V-C2 and V-C7. -/
def Obligations.CrcOfTheSpecsMessages : Prop :=
  crc16 [0x31, 0x32, 0x33, 0x34, 0x35, 0x36, 0x37, 0x38, 0x39] = 0xBB3D ∧
  crc16 [0x0F, 0x00, 0x00, 0x01, 0x02, 0x03, 0x04, 0x05, 0x06, 0x07, 0x08] = 0xD0C0 ∧
  crc16 [0xAA, 0x00, 0x00, 0x07, 0x01, 0x02, 0x03, 0x04, 0x05, 0x06, 0x07, 0x08] = 0x2D4D

/-- A readback is accepted when the CRC over the message and the two CRC bytes read is 0xB001, which is exactly when those
bytes are the bitwise complement of the CRC of the message, low byte first (45_memory_transactions.md R272). -/
def Obligations.CrcResidueIffComplementedReadback : Prop :=
  ∀ (msg : List Byte) (lo hi : Byte),
    (crcAccepts (crc16 (msg ++ [lo, hi])) = true ↔ crc16 (msg ++ [lo, hi]) = 0xB001) ∧
    (crc16 (msg ++ [lo, hi]) = 0xB001 ↔ lo = lo8 (~~~(crc16 msg)) ∧ hi = hi8 (~~~(crc16 msg)))

/-! ## Memory transactions -/

/-- WRITE_SCRATCHPAD (45_memory_transactions.md R275) on a frame without a bus failure: addressing, command, address, data,
then two CRC bytes and a status byte are read; the CRC decides before the status byte. -/
def Obligations.WriteScratchpadVerifiesTheReadback : Prop :=
  ∀ (s : State) (addr : Half) (data : Bytes8) (k1 k2 : Nat) (lo hi x : Byte) (as rest : List Answer),
    s.Quiet → s.Ready → s.Addressable k1 k2 → addr.toNat % 8 = 0 → addr.toNat < 0x80 → s.env = as ++ rest →
    fits (addressed s.mode k1 k2 ++ bytesWritten 11 ++ bytesRead [lo, hi, x]) as = true →
    exec (.writeScratchpad addr data) s = .next ((s.ran (addressTrace s.mode s.rom (k1 + k2)
      ++ bytesWriteTrace (modeFunction s.mode) ([0x0F, lo8 addr, hi8 addr] ++ data.toList)
      ++ bytesReadTrace (modeFunction s.mode) 3) rest).reply
        (if crc16 ([0x0F, lo8 addr, hi8 addr] ++ data.toList ++ [lo, hi]) ≠ 0xB001 then hostReply 5 .crc .none
          else if x ≠ 0xFF then hostReply 5 .statusByte .none
          else hostReply 0 .ok .none))

/-- READ_SCRATCHPAD (45_memory_transactions.md R280) on a frame without a bus failure: all 14 bytes are read, then the E/S
byte, the trailing byte and the CRC decide, in that order. -/
def Obligations.ReadScratchpadChecksAfterTheFrame : Prop :=
  ∀ (s : State) (t0 t1 es : Byte) (d : Bytes8) (k1 k2 : Nat) (lo hi x : Byte) (as rest : List Answer),
    s.Quiet → s.Ready → s.Addressable k1 k2 → s.env = as ++ rest →
    fits (addressed s.mode k1 k2 ++ bytesWritten 1 ++ bytesRead ([t0, t1, es] ++ d.toList ++ [lo, hi, x])) as = true →
    exec .readScratchpad s = .next ((s.ran (addressTrace s.mode s.rom (k1 + k2)
      ++ byteWriteTrace (modeFunction s.mode) 0xAA ++ bytesReadTrace (modeFunction s.mode) 14) rest).reply
        (if es ≠ 0x07 then hostReply 5 .statusByte .none
          else if x ≠ 0xFF then hostReply 5 .statusByte .none
          else if crc16 ([0xAA, t0, t1, es] ++ d.toList ++ [lo, hi]) ≠ 0xB001 then hostReply 6 .crc .none
          else hostReply 0 .ok (.scratchpad (half t0 t1) d)))

/-- COPY_SCRATCHPAD (45_memory_transactions.md R285) on a frame without a bus failure: the copy command, the address and the
authorization byte 0x07, the 10 ms wait outside any critical section, then the status byte decides. -/
def Obligations.CopyScratchpadWaitsThenChecks : Prop :=
  ∀ (s : State) (addr : Half) (k1 k2 : Nat) (x : Byte) (as rest : List Answer),
    s.Quiet → s.Ready → s.Addressable k1 k2 → addr.toNat % 8 = 0 → addr.toNat < 0x80 → s.env = as ++ rest →
    fits (addressed s.mode k1 k2 ++ bytesWritten 4 ++ bytesRead [x]) as = true →
    exec (.copyScratchpad addr) s = .next ((s.ran (addressTrace s.mode s.rom (k1 + k2)
      ++ bytesWriteTrace (modeFunction s.mode) [0x55, lo8 addr, hi8 addr, 0x07] ++ [PortEvent.dms 10]
      ++ byteReadTrace (modeFunction s.mode)) rest).reply
        (if x ≠ 0xAA then hostReply 5 .response .none else hostReply 0 .ok .none))

/-- A failing call anywhere in an addressing sequence or a memory transaction, in its reset, its addressing or any byte sent
or read, ends it with TRANSPORT and exactly the events up to that call: ROM_MATCH and the three scratchpad operations with
status 1 (43_rom_addressing.md R221, 45_memory_transactions.md R274), ADDRESS, MEM_READ and PAGE_WRITE, in either session, with
ERR(TRANSPORT) (R288, R290). -/
def Obligations.FailingCallEndsTheTransaction : Prop :=
  ∀ (s : State) (k1 k2 : Nat) (P : Prof) (ws0 : List Wanted) (evs0 : List PortEvent), s.Quiet →
    (s.Ready → s.romReadable = true → PollsWithin .std k1 k2 →
      FailingCallEnds s (resetPresent k1 k2 ++ bytesWritten 9)
        (resetTrace .std (k1 + k2) ++ byteWriteTrace .std 0x69 ++ bytesWriteTrace .od s.rom.toList)
        .romMatch (hostReply 1 .transport .none)) ∧
    (s.Addressable k1 k2 → P = modeFunction s.mode → ws0 = addressed s.mode k1 k2 →
      evs0 = addressTrace s.mode s.rom (k1 + k2) →
      FailingCallEnds s ws0 evs0 .address (.micro (.err .transport)) ∧
      (∀ (addr : Half) (data : Bytes8) (lo hi x : Byte), s.Ready → addr.toNat % 8 = 0 → addr.toNat < 0x80 →
        FailingCallEnds s (ws0 ++ bytesWritten 11 ++ bytesRead [lo, hi, x])
          (evs0 ++ bytesWriteTrace P ([0x0F, lo8 addr, hi8 addr] ++ data.toList) ++ bytesReadTrace P 3)
          (.writeScratchpad addr data) (hostReply 1 .transport .none) ∧
        FailingCallEnds s (ws0 ++ bytesWritten 4 ++ bytesRead [x])
          (evs0 ++ bytesWriteTrace P [0x55, lo8 addr, hi8 addr, 0x07] ++ [PortEvent.dms 10] ++ byteReadTrace P)
          (.copyScratchpad addr) (hostReply 1 .transport .none)) ∧
      (∀ bs : List Byte, s.Ready → bs.length = 14 →
        FailingCallEnds s (ws0 ++ bytesWritten 1 ++ bytesRead bs) (evs0 ++ byteWriteTrace P 0xAA ++ bytesReadTrace P 14)
          .readScratchpad (hostReply 1 .transport .none)) ∧
      (∀ (addr len : Half) (bs : List Byte), bs.length = len.toNat →
        FailingCallEnds s (ws0 ++ bytesWritten 3 ++ bytesRead bs)
          (evs0 ++ bytesWriteTrace P [0xF0, lo8 addr, hi8 addr] ++ bytesReadTrace P len.toNat)
          (.memRead addr len) (.micro (.err .transport))) ∧
      (∀ (addr : Half) (data : Bytes8) (lo hi x : Byte) (k3 k4 : Nat), PollsWithin (modeReset s.mode) k3 k4 →
        crc16 ([0x0F, lo8 addr, hi8 addr] ++ data.toList ++ [lo, hi]) = 0xB001 →
        FailingCallEnds s (ws0 ++ bytesWritten 11 ++ bytesRead [lo, hi]
            ++ addressed s.mode k3 k4 ++ bytesWritten 4 ++ bytesRead [x])
          (evs0 ++ bytesWriteTrace P ([0x0F, lo8 addr, hi8 addr] ++ data.toList) ++ bytesReadTrace P 2
            ++ addressTrace s.mode s.rom (k3 + k4) ++ bytesWriteTrace P [0x55, lo8 addr, hi8 addr, 0x07]
            ++ [PortEvent.dms 10] ++ byteReadTrace P)
          (.pageWrite addr data) (.micro (.err .transport))))

/-- MEM_READ (45_memory_transactions.md R288), READ (R292), READ_MEMORY (R293) and READ_CONFIG (R297) on a frame without a
bus failure: addressing, the read-memory command and the address, then the bytes read are the result, unchecked. -/
def Obligations.MemoryReadsReturnTheBytesRead : Prop :=
  ∀ (s : State) (addr len : Half) (bs : List Byte) (k1 k2 : Nat) (as rest : List Answer),
    s.Quiet → s.Addressable k1 k2 → bs.length = len.toNat → s.env = as ++ rest →
    fits (addressed s.mode k1 k2 ++ bytesWritten 3 ++ bytesRead bs) as = true →
    ∃ t : State, t = s.ran (addressTrace s.mode s.rom (k1 + k2)
        ++ bytesWriteTrace (modeFunction s.mode) [0xF0, lo8 addr, hi8 addr]
        ++ bytesReadTrace (modeFunction s.mode) len.toNat) rest ∧
      exec (.memRead addr len) s = .next (t.reply (.micro (.ok (.bytes bs)))) ∧
      (s.Ready → addr.toNat + len.toNat ≤ 128 →
        exec (.read addr len) s = .next (t.reply (hostReply 0 .ok (.data bs))) ∧
        exec (.readMemory addr len) s = .next (t.reply (hostReply 0 .ok (.data bs)))) ∧
      (s.Ready → addr = 0x0080 → ∀ c : Bytes8, bs = c.toList →
        exec .readConfig s = .next (t.reply (hostReply 0 .ok (.config c))))

/-- READ, READ_MEMORY and READ_CONFIG are MEM_READ, also when it fails: its cause is returned with status 1, and a fault it
meets is recorded (45_memory_transactions.md R292, R293, R297). -/
def Obligations.PublicReadsAreMemRead : Prop :=
  ∀ s : State, s.Ready → s.ModeLegal →
    (∀ addr len : Half, addr.toNat + len.toNat ≤ 128 → ∃ t, exec (.memRead addr len) s = .next t ∧
      exec (.read addr len) s = .next (respondFor dataOutput s t) ∧
      exec (.readMemory addr len) s = .next (respondFor dataOutput s t)) ∧
    (∃ t, exec (.memRead 0x0080 8) s = .next t ∧
      exec .readConfig s = .next (respondFor configOutput s t))

/-- PAGE_WRITE (45_memory_transactions.md R290), and WRITE_CONFIG (R298) and a WRITE of one whole page (R295), on a first
session without a bus failure. A readback whose CRC does not verify ends it there with CRC; else the second session
re-addresses, copies, waits and reads the status byte, which decides. -/
def Obligations.PageWriteVerifiesThenCopies : Prop :=
  ∀ (s : State) (addr : Half) (data : Bytes8) (k1 k2 : Nat) (lo hi : Byte) (as rest : List Answer),
    s.Quiet → s.Addressable k1 k2 → addr.toNat % 8 = 0 → s.env = as ++ rest →
    fits (addressed s.mode k1 k2 ++ bytesWritten 11 ++ bytesRead [lo, hi]) as = true →
    ∀ (first : List PortEvent), first = addressTrace s.mode s.rom (k1 + k2)
        ++ bytesWriteTrace (modeFunction s.mode) ([0x0F, lo8 addr, hi8 addr] ++ data.toList)
        ++ bytesReadTrace (modeFunction s.mode) 2 →
    (crc16 ([0x0F, lo8 addr, hi8 addr] ++ data.toList ++ [lo, hi]) ≠ 0xB001 →
      exec (.pageWrite addr data) s = .next ((s.ran first rest).reply (.micro (.err .crc))) ∧
      (s.Ready → addr = 0x0080 →
        exec (.writeConfig data) s = .next ((s.ran first rest).reply (hostReply 1 .crc .none))) ∧
      (s.Ready → addr.toNat < 0x80 →
        exec (.write addr data.toList) s = .next ((s.ran first rest).reply (hostReply 1 .crc .none)))) ∧
    (crc16 ([0x0F, lo8 addr, hi8 addr] ++ data.toList ++ [lo, hi]) = 0xB001 →
      ∀ (k3 k4 : Nat) (x : Byte) (as2 rest2 : List Answer), PollsWithin (modeReset s.mode) k3 k4 →
      rest = as2 ++ rest2 → fits (addressed s.mode k3 k4 ++ bytesWritten 4 ++ bytesRead [x]) as2 = true →
      ∀ (t : State), t = s.ran (first ++ addressTrace s.mode s.rom (k3 + k4)
          ++ bytesWriteTrace (modeFunction s.mode) [0x55, lo8 addr, hi8 addr, 0x07] ++ [PortEvent.dms 10]
          ++ byteReadTrace (modeFunction s.mode)) rest2 →
      exec (.pageWrite addr data) s =
        .next (t.reply (if x ≠ 0xAA then .micro (.err .response) else microOk)) ∧
      (s.Ready → addr = 0x0080 → exec (.writeConfig data) s =
        .next (t.reply (if x ≠ 0xAA then hostReply 1 .response .none else hostReply 0 .ok .none))) ∧
      (s.Ready → addr.toNat < 0x80 → exec (.write addr data.toList) s =
        .next (t.reply (if x ≠ 0xAA then hostReply 1 .response .none else hostReply 0 .ok .none))))

/-- WRITE_CONFIG and a WRITE of one whole page are PAGE_WRITE, also when it fails: every error of it is status 1 with its
cause kept, and a fault it meets is recorded (45_memory_transactions.md R290, R295, R298; 60_exceptions.md R366). -/
def Obligations.WholePageWritesArePageWrite : Prop :=
  ∀ (s : State) (data : Bytes8), s.Quiet → s.Ready → s.ModeLegal →
    (∀ addr : Half, addr.toNat % 8 = 0 → addr.toNat < 0x80 → ∃ t, exec (.pageWrite addr data) s = .next t ∧
      exec (.write addr data.toList) s = .next (respondFor noOutput s t)) ∧
    (∃ t, exec (.pageWrite 0x0080 data) s = .next t ∧
      exec (.writeConfig data) s = .next (respondFor noOutput s t))

/-- A WRITE inside one page that does not fill it is a MEM_READ of the page, then a PAGE_WRITE of the page read with the new
bytes laid over it at the in-page offset: the bytes outside the written range are exactly those read. A failure of either
ends it with status 1 and the cause (45_memory_transactions.md R295, R296). -/
def Obligations.PartialPageWriteIsReadModifyWrite : Prop :=
  ∀ (s : State) (page : Half) (o : Nat) (data : List Byte), s.Quiet → s.Ready → s.ModeLegal →
    page.toNat % 8 = 0 → page.toNat < 0x80 → 1 ≤ data.length → data.length < 8 → o + data.length ≤ 8 →
    ∃ t, exec (.memRead page 8) s = .next t ∧
      ((∃ old : Bytes8, t.replies = s.replies ++ [.micro (.ok (.bytes old.toList))] ∧
        ∃ (new : Bytes8) (u : State), (∀ j, j < 8 → byteAt new j =
            if o ≤ j ∧ j < o + data.length then data.getD (j - o) 0 else byteAt old j) ∧
          exec (.pageWrite page new) { t with replies := s.replies } = .next u ∧
          exec (.write (page + BitVec.ofNat 16 o) data) s = .next (respondFor noOutput s u)) ∨
       ((∀ v, t.replies ≠ s.replies ++ [.micro (.ok v)]) ∧
        exec (.write (page + BitVec.ofNat 16 o) data) s = .next (respondFor noOutput s t)))

/-- A WRITE of no bytes runs no chunk, and a longer one splits at page boundaries: where its first part ends at one, it is
the WRITE of the first part, and, if that succeeds, the WRITE of the rest after it; chunks already written stay written
(45_memory_transactions.md R295). -/
def Obligations.WriteSplitsAtPageBoundaries : Prop :=
  ∀ (s : State) (addr : Half), s.Quiet → s.Ready → s.ModeLegal →
    (addr.toNat ≤ 128 → exec (.write addr []) s = .next (s.reply (hostReply 0 .ok .none))) ∧
    (∀ d1 d2 : List Byte, (addr.toNat + d1.length) % 8 = 0 → addr.toNat + d1.length + d2.length ≤ 128 →
      ∃ t, exec (.write addr d1) s = .next t ∧
        (t.replies = s.replies ++ [hostReply 0 .ok .none] → ∃ u,
          exec (.write (addr + BitVec.ofNat 16 d1.length) d2) { t with replies := s.replies } = .next u ∧
          exec (.write addr (d1 ++ d2)) s = .next u) ∧
        (t.replies ≠ s.replies ++ [hostReply 0 .ok .none] → exec (.write addr (d1 ++ d2)) s = .next t))
end

