-- ==== Sys2Proof/Laws/State.lean ====
section
/-! SUPPORT. One lemma per field of State per named update, each true by rfl. -/

namespace Sys2Proof.Machine

variable (s : State)

/-! ### emit -/

@[simp] theorem State.emit_inited (e : PortEvent) : (s.emit e).inited = s.inited := rfl
@[simp] theorem State.emit_mode (e : PortEvent) : (s.emit e).mode = s.mode := rfl
@[simp] theorem State.emit_modeWritten (e : PortEvent) : (s.emit e).modeWritten = s.modeWritten := rfl
@[simp] theorem State.emit_rom (e : PortEvent) : (s.emit e).rom = s.rom := rfl
@[simp] theorem State.emit_romWritten (e : PortEvent) : (s.emit e).romWritten = s.romWritten := rfl
@[simp] theorem State.emit_unwrittenFaults (e : PortEvent) : (s.emit e).unwrittenFaults = s.unwrittenFaults := rfl
@[simp] theorem State.emit_caps (e : PortEvent) : (s.emit e).caps = s.caps := rfl
@[simp] theorem State.emit_cs (e : PortEvent) : (s.emit e).cs = s.cs := rfl
@[simp] theorem State.emit_line (e : PortEvent) : (s.emit e).line = s.line := rfl
@[simp] theorem State.emit_tx (e : PortEvent) : (s.emit e).tx = s.tx := rfl
@[simp] theorem State.emit_search (e : PortEvent) : (s.emit e).search = s.search := rfl
@[simp] theorem State.emit_acc (e : PortEvent) : (s.emit e).acc = s.acc := rfl
@[simp] theorem State.emit_polls (e : PortEvent) : (s.emit e).polls = s.polls := rfl
@[simp] theorem State.emit_cursor (e : PortEvent) : (s.emit e).cursor = s.cursor := rfl
@[simp] theorem State.emit_inbox (e : PortEvent) : (s.emit e).inbox = s.inbox := rfl
@[simp] theorem State.emit_handle (e : PortEvent) : (s.emit e).handle = s.handle := rfl
@[simp] theorem State.emit_env (e : PortEvent) : (s.emit e).env = s.env := rfl
@[simp] theorem State.emit_trace (e : PortEvent) : (s.emit e).trace = s.trace ++ [e] := rfl
@[simp] theorem State.emit_replies (e : PortEvent) : (s.emit e).replies = s.replies := rfl
@[simp] theorem State.emit_halt (e : PortEvent) : (s.emit e).halt = s.halt := rfl

/-! ### answered -/

@[simp] theorem State.answered_inited : (s.answered).inited = s.inited := rfl
@[simp] theorem State.answered_mode : (s.answered).mode = s.mode := rfl
@[simp] theorem State.answered_modeWritten : (s.answered).modeWritten = s.modeWritten := rfl
@[simp] theorem State.answered_rom : (s.answered).rom = s.rom := rfl
@[simp] theorem State.answered_romWritten : (s.answered).romWritten = s.romWritten := rfl
@[simp] theorem State.answered_unwrittenFaults : (s.answered).unwrittenFaults = s.unwrittenFaults := rfl
@[simp] theorem State.answered_caps : (s.answered).caps = s.caps := rfl
@[simp] theorem State.answered_cs : (s.answered).cs = s.cs := rfl
@[simp] theorem State.answered_line : (s.answered).line = s.line := rfl
@[simp] theorem State.answered_tx : (s.answered).tx = s.tx := rfl
@[simp] theorem State.answered_search : (s.answered).search = s.search := rfl
@[simp] theorem State.answered_acc : (s.answered).acc = s.acc := rfl
@[simp] theorem State.answered_polls : (s.answered).polls = s.polls := rfl
@[simp] theorem State.answered_cursor : (s.answered).cursor = s.cursor := rfl
@[simp] theorem State.answered_inbox : (s.answered).inbox = s.inbox := rfl
@[simp] theorem State.answered_handle : (s.answered).handle = s.handle := rfl
@[simp] theorem State.answered_env : (s.answered).env = s.env.tail := rfl
@[simp] theorem State.answered_trace : (s.answered).trace = s.trace := rfl
@[simp] theorem State.answered_replies : (s.answered).replies = s.replies := rfl
@[simp] theorem State.answered_halt : (s.answered).halt = s.halt := rfl

/-! ### called -/

@[simp] theorem State.called_inited (e : PortEvent) : (s.called e).inited = s.inited := rfl
@[simp] theorem State.called_mode (e : PortEvent) : (s.called e).mode = s.mode := rfl
@[simp] theorem State.called_modeWritten (e : PortEvent) : (s.called e).modeWritten = s.modeWritten := rfl
@[simp] theorem State.called_rom (e : PortEvent) : (s.called e).rom = s.rom := rfl
@[simp] theorem State.called_romWritten (e : PortEvent) : (s.called e).romWritten = s.romWritten := rfl
@[simp] theorem State.called_unwrittenFaults (e : PortEvent) : (s.called e).unwrittenFaults = s.unwrittenFaults := rfl
@[simp] theorem State.called_caps (e : PortEvent) : (s.called e).caps = s.caps := rfl
@[simp] theorem State.called_cs (e : PortEvent) : (s.called e).cs = s.cs := rfl
@[simp] theorem State.called_line (e : PortEvent) : (s.called e).line = s.line := rfl
@[simp] theorem State.called_tx (e : PortEvent) : (s.called e).tx = s.tx := rfl
@[simp] theorem State.called_search (e : PortEvent) : (s.called e).search = s.search := rfl
@[simp] theorem State.called_acc (e : PortEvent) : (s.called e).acc = s.acc := rfl
@[simp] theorem State.called_polls (e : PortEvent) : (s.called e).polls = s.polls := rfl
@[simp] theorem State.called_cursor (e : PortEvent) : (s.called e).cursor = s.cursor := rfl
@[simp] theorem State.called_inbox (e : PortEvent) : (s.called e).inbox = s.inbox := rfl
@[simp] theorem State.called_handle (e : PortEvent) : (s.called e).handle = s.handle := rfl
@[simp] theorem State.called_env (e : PortEvent) : (s.called e).env = s.env.tail := rfl
@[simp] theorem State.called_trace (e : PortEvent) : (s.called e).trace = s.trace ++ [e] := rfl
@[simp] theorem State.called_replies (e : PortEvent) : (s.called e).replies = s.replies := rfl
@[simp] theorem State.called_halt (e : PortEvent) : (s.called e).halt = s.halt := rfl

/-! ### irqOff -/

@[simp] theorem State.irqOff_inited : (s.irqOff).inited = s.inited := rfl
@[simp] theorem State.irqOff_mode : (s.irqOff).mode = s.mode := rfl
@[simp] theorem State.irqOff_modeWritten : (s.irqOff).modeWritten = s.modeWritten := rfl
@[simp] theorem State.irqOff_rom : (s.irqOff).rom = s.rom := rfl
@[simp] theorem State.irqOff_romWritten : (s.irqOff).romWritten = s.romWritten := rfl
@[simp] theorem State.irqOff_unwrittenFaults : (s.irqOff).unwrittenFaults = s.unwrittenFaults := rfl
@[simp] theorem State.irqOff_caps : (s.irqOff).caps = s.caps := rfl
@[simp] theorem State.irqOff_cs : (s.irqOff).cs = true := rfl
@[simp] theorem State.irqOff_line : (s.irqOff).line = s.line := rfl
@[simp] theorem State.irqOff_tx : (s.irqOff).tx = s.tx := rfl
@[simp] theorem State.irqOff_search : (s.irqOff).search = s.search := rfl
@[simp] theorem State.irqOff_acc : (s.irqOff).acc = s.acc := rfl
@[simp] theorem State.irqOff_polls : (s.irqOff).polls = s.polls := rfl
@[simp] theorem State.irqOff_cursor : (s.irqOff).cursor = s.cursor := rfl
@[simp] theorem State.irqOff_inbox : (s.irqOff).inbox = s.inbox := rfl
@[simp] theorem State.irqOff_handle : (s.irqOff).handle = s.handle := rfl
@[simp] theorem State.irqOff_env : (s.irqOff).env = s.env := rfl
@[simp] theorem State.irqOff_trace : (s.irqOff).trace = s.trace ++ [.irqOff] := rfl
@[simp] theorem State.irqOff_replies : (s.irqOff).replies = s.replies := rfl
@[simp] theorem State.irqOff_halt : (s.irqOff).halt = s.halt := rfl

/-! ### irqOn -/

@[simp] theorem State.irqOn_inited : (s.irqOn).inited = s.inited := rfl
@[simp] theorem State.irqOn_mode : (s.irqOn).mode = s.mode := rfl
@[simp] theorem State.irqOn_modeWritten : (s.irqOn).modeWritten = s.modeWritten := rfl
@[simp] theorem State.irqOn_rom : (s.irqOn).rom = s.rom := rfl
@[simp] theorem State.irqOn_romWritten : (s.irqOn).romWritten = s.romWritten := rfl
@[simp] theorem State.irqOn_unwrittenFaults : (s.irqOn).unwrittenFaults = s.unwrittenFaults := rfl
@[simp] theorem State.irqOn_caps : (s.irqOn).caps = s.caps := rfl
@[simp] theorem State.irqOn_cs : (s.irqOn).cs = false := rfl
@[simp] theorem State.irqOn_line : (s.irqOn).line = s.line := rfl
@[simp] theorem State.irqOn_tx : (s.irqOn).tx = s.tx := rfl
@[simp] theorem State.irqOn_search : (s.irqOn).search = s.search := rfl
@[simp] theorem State.irqOn_acc : (s.irqOn).acc = s.acc := rfl
@[simp] theorem State.irqOn_polls : (s.irqOn).polls = s.polls := rfl
@[simp] theorem State.irqOn_cursor : (s.irqOn).cursor = s.cursor := rfl
@[simp] theorem State.irqOn_inbox : (s.irqOn).inbox = s.inbox := rfl
@[simp] theorem State.irqOn_handle : (s.irqOn).handle = s.handle := rfl
@[simp] theorem State.irqOn_env : (s.irqOn).env = s.env := rfl
@[simp] theorem State.irqOn_trace : (s.irqOn).trace = s.trace ++ [.irqOn] := rfl
@[simp] theorem State.irqOn_replies : (s.irqOn).replies = s.replies := rfl
@[simp] theorem State.irqOn_halt : (s.irqOn).halt = s.halt := rfl

/-! ### reply -/

@[simp] theorem State.reply_inited (r : Reply) : (s.reply r).inited = s.inited := rfl
@[simp] theorem State.reply_mode (r : Reply) : (s.reply r).mode = s.mode := rfl
@[simp] theorem State.reply_modeWritten (r : Reply) : (s.reply r).modeWritten = s.modeWritten := rfl
@[simp] theorem State.reply_rom (r : Reply) : (s.reply r).rom = s.rom := rfl
@[simp] theorem State.reply_romWritten (r : Reply) : (s.reply r).romWritten = s.romWritten := rfl
@[simp] theorem State.reply_unwrittenFaults (r : Reply) : (s.reply r).unwrittenFaults = s.unwrittenFaults := rfl
@[simp] theorem State.reply_caps (r : Reply) : (s.reply r).caps = s.caps := rfl
@[simp] theorem State.reply_cs (r : Reply) : (s.reply r).cs = s.cs := rfl
@[simp] theorem State.reply_line (r : Reply) : (s.reply r).line = s.line := rfl
@[simp] theorem State.reply_tx (r : Reply) : (s.reply r).tx = s.tx := rfl
@[simp] theorem State.reply_search (r : Reply) : (s.reply r).search = s.search := rfl
@[simp] theorem State.reply_acc (r : Reply) : (s.reply r).acc = s.acc := rfl
@[simp] theorem State.reply_polls (r : Reply) : (s.reply r).polls = s.polls := rfl
@[simp] theorem State.reply_cursor (r : Reply) : (s.reply r).cursor = s.cursor := rfl
@[simp] theorem State.reply_inbox (r : Reply) : (s.reply r).inbox = s.inbox := rfl
@[simp] theorem State.reply_handle (r : Reply) : (s.reply r).handle = s.handle := rfl
@[simp] theorem State.reply_env (r : Reply) : (s.reply r).env = s.env := rfl
@[simp] theorem State.reply_trace (r : Reply) : (s.reply r).trace = s.trace := rfl
@[simp] theorem State.reply_replies (r : Reply) : (s.reply r).replies = s.replies ++ [r] := rfl
@[simp] theorem State.reply_halt (r : Reply) : (s.reply r).halt = s.halt := rfl

/-! ### halted -/

@[simp] theorem State.halted_inited (h : Halt) : (s.halted h).inited = s.inited := rfl
@[simp] theorem State.halted_mode (h : Halt) : (s.halted h).mode = s.mode := rfl
@[simp] theorem State.halted_modeWritten (h : Halt) : (s.halted h).modeWritten = s.modeWritten := rfl
@[simp] theorem State.halted_rom (h : Halt) : (s.halted h).rom = s.rom := rfl
@[simp] theorem State.halted_romWritten (h : Halt) : (s.halted h).romWritten = s.romWritten := rfl
@[simp] theorem State.halted_unwrittenFaults (h : Halt) : (s.halted h).unwrittenFaults = s.unwrittenFaults := rfl
@[simp] theorem State.halted_caps (h : Halt) : (s.halted h).caps = s.caps := rfl
@[simp] theorem State.halted_cs (h : Halt) : (s.halted h).cs = s.cs := rfl
@[simp] theorem State.halted_line (h : Halt) : (s.halted h).line = s.line := rfl
@[simp] theorem State.halted_tx (h : Halt) : (s.halted h).tx = s.tx := rfl
@[simp] theorem State.halted_search (h : Halt) : (s.halted h).search = s.search := rfl
@[simp] theorem State.halted_acc (h : Halt) : (s.halted h).acc = s.acc := rfl
@[simp] theorem State.halted_polls (h : Halt) : (s.halted h).polls = s.polls := rfl
@[simp] theorem State.halted_cursor (h : Halt) : (s.halted h).cursor = s.cursor := rfl
@[simp] theorem State.halted_inbox (h : Halt) : (s.halted h).inbox = s.inbox := rfl
@[simp] theorem State.halted_handle (h : Halt) : (s.halted h).handle = s.handle := rfl
@[simp] theorem State.halted_env (h : Halt) : (s.halted h).env = s.env := rfl
@[simp] theorem State.halted_trace (h : Halt) : (s.halted h).trace = s.trace := rfl
@[simp] theorem State.halted_replies (h : Halt) : (s.halted h).replies = s.replies := rfl
@[simp] theorem State.halted_halt (h : Halt) : (s.halted h).halt = some h := rfl

/-! ### takeRequest -/

@[simp] theorem State.takeRequest_inited (r : Request) (rest : List Request) : (s.takeRequest r rest).inited = s.inited := rfl
@[simp] theorem State.takeRequest_mode (r : Request) (rest : List Request) : (s.takeRequest r rest).mode = s.mode := rfl
@[simp] theorem State.takeRequest_modeWritten (r : Request) (rest : List Request) : (s.takeRequest r rest).modeWritten = s.modeWritten := rfl
@[simp] theorem State.takeRequest_rom (r : Request) (rest : List Request) : (s.takeRequest r rest).rom = s.rom := rfl
@[simp] theorem State.takeRequest_romWritten (r : Request) (rest : List Request) : (s.takeRequest r rest).romWritten = s.romWritten := rfl
@[simp] theorem State.takeRequest_unwrittenFaults (r : Request) (rest : List Request) : (s.takeRequest r rest).unwrittenFaults = s.unwrittenFaults := rfl
@[simp] theorem State.takeRequest_caps (r : Request) (rest : List Request) : (s.takeRequest r rest).caps = s.caps := rfl
@[simp] theorem State.takeRequest_cs (r : Request) (rest : List Request) : (s.takeRequest r rest).cs = s.cs := rfl
@[simp] theorem State.takeRequest_line (r : Request) (rest : List Request) : (s.takeRequest r rest).line = s.line := rfl
@[simp] theorem State.takeRequest_tx (r : Request) (rest : List Request) : (s.takeRequest r rest).tx = s.tx := rfl
@[simp] theorem State.takeRequest_search (r : Request) (rest : List Request) : (s.takeRequest r rest).search = s.search := rfl
@[simp] theorem State.takeRequest_acc (r : Request) (rest : List Request) : (s.takeRequest r rest).acc = s.acc := rfl
@[simp] theorem State.takeRequest_polls (r : Request) (rest : List Request) : (s.takeRequest r rest).polls = s.polls := rfl
@[simp] theorem State.takeRequest_cursor (r : Request) (rest : List Request) : (s.takeRequest r rest).cursor = s.cursor := rfl
@[simp] theorem State.takeRequest_inbox (r : Request) (rest : List Request) : (s.takeRequest r rest).inbox = rest := rfl
@[simp] theorem State.takeRequest_handle (r : Request) (rest : List Request) : (s.takeRequest r rest).handle = r.handle := rfl
@[simp] theorem State.takeRequest_env (r : Request) (rest : List Request) : (s.takeRequest r rest).env = s.env := rfl
@[simp] theorem State.takeRequest_trace (r : Request) (rest : List Request) : (s.takeRequest r rest).trace = s.trace := rfl
@[simp] theorem State.takeRequest_replies (r : Request) (rest : List Request) : (s.takeRequest r rest).replies = s.replies := rfl
@[simp] theorem State.takeRequest_halt (r : Request) (rest : List Request) : (s.takeRequest r rest).halt = s.halt := rfl

end Sys2Proof.Machine
end

