-- ==== Sys2Proof/Laws/Proc.lean ====
section
/-! SUPPORT. What running a sequence gives, one equation for each way of building one: the provers cite these instead of
unfolding the sequence type. -/

namespace Sys2Proof.Machine

variable {α β : Type}

@[simp] theorem Proc.run_of (f : State → Except Stop α × State) (s : State) : (Proc.of f).run s = f s := rfl

@[simp] theorem Proc.run_pure (a : α) (s : State) : Proc.run (pure a) s = (.ok a, s) := rfl

@[simp] theorem Proc.run_update (f : State → State) (s : State) : Proc.run (Proc.update f) s = (.ok (), f s) := rfl

@[simp] theorem Proc.run_look (f : State → α) (s : State) : Proc.run (Proc.look f) s = (.ok (f s), s) := rfl

@[simp] theorem Proc.run_fail (c : Cause) (s : State) : Proc.run (Proc.fail (α := α) c) s = (.error (.err c), s) := rfl

@[simp] theorem Proc.run_stop (h : Halt) (s : State) : Proc.run (Proc.stop (α := α) h) s = (.error (.halt h), s) := rfl

/-- Sequencing: the second part runs from the state the first leaves, unless the first ended early. -/
theorem Proc.run_bind (m : Proc α) (f : α → Proc β) (s : State) :
    Proc.run (m >>= f) s =
      match Proc.run m s with
      | (.ok a, t) => Proc.run (f a) t
      | (.error e, t) => (.error e, t) := by
  show (ExceptT.bind m f) s = _
  simp only [ExceptT.bind, ExceptT.mk, bind, StateT.bind, Proc.run]
  rcases h : m s with ⟨_ | _, _⟩ <;> rfl

theorem Proc.run_map (m : Proc α) (f : α → β) (s : State) :
    Proc.run (f <$> m) s =
      match Proc.run m s with
      | (.ok a, t) => (.ok (f a), t)
      | (.error e, t) => (.error e, t) := by
  rw [map_eq_pure_bind, Proc.run_bind]
  rfl

theorem Proc.run_bind_ok {m : Proc α} {f : α → Proc β} {s t : State} {a : α} (h : Proc.run m s = (.ok a, t)) :
    Proc.run (m >>= f) s = Proc.run (f a) t := by
  rw [Proc.run_bind, h]

theorem Proc.run_bind_error {m : Proc α} {f : α → Proc β} {s t : State} {e : Stop} (h : Proc.run m s = (.error e, t)) :
    Proc.run (m >>= f) s = (.error e, t) := by
  rw [Proc.run_bind, h]

@[simp] theorem Proc.run_ensuring (m : Proc α) (fin : State → State) (s : State) :
    Proc.run (m.ensuring fin) s = ((Proc.run m s).1, fin (Proc.run m s).2) := rfl

@[simp] theorem run_require (ok : Bool) (c : Cause) (s : State) :
    Proc.run (require ok c) s = if ok then (.ok (), s) else (.error (.err c), s) := by
  cases ok <;> rfl

theorem run_critical (m : Proc α) (s : State) :
    Proc.run (critical m) s = ((Proc.run m s.irqOff).1, (Proc.run m s.irqOff).2.irqOn) := rfl

theorem run_withAcc (m : Proc α) (s : State) :
    Proc.run (withAcc m) s =
      ((Proc.run m { s with acc := some 0 }).1, { (Proc.run m { s with acc := some 0 }).2 with acc := none }) := rfl

theorem run_withPolls (m : Proc α) (s : State) :
    Proc.run (withPolls m) s =
      ((Proc.run m { s with polls := some 0 }).1, { (Proc.run m { s with polls := some 0 }).2 with polls := none }) := rfl

theorem run_withSearch (m : Proc α) (s : State) :
    Proc.run (withSearch m) s =
      ((Proc.run m { s with search := some Search.start }).1,
        { (Proc.run m { s with search := some Search.start }).2 with search := none }) := rfl

theorem run_withCursor (c : Cursor) (m : Proc α) (s : State) :
    Proc.run (withCursor c m) s =
      ((Proc.run m { s with cursor := some c }).1, { (Proc.run m { s with cursor := some c }).2 with cursor := none }) := rfl

theorem run_withTx (ta : Half) (data : List Byte) (m : Proc α) (s : State) :
    Proc.run (withTx ta data m) s =
      ((Proc.run m { s with tx := some ⟨ta, data, cfg.crcInit, []⟩ }).1,
        { (Proc.run m { s with tx := some ⟨ta, data, cfg.crcInit, []⟩ }).2 with tx := none }) := rfl

/-! ### Port primitives: everything each can do -/

/-- A capability call that fails with a cause on any status but 0: the call is made, then it ends by its status. -/
theorem run_callOr (e : PortEvent) (c : Cause) (s : State) :
    Proc.run (callOr e c) s =
      if (s.emit e).answer.status = 0 then (.ok (s.emit e).answer, s.called e) else (.error (.err c), s.called e) := by
  by_cases h : (s.emit e).answer.status = 0#8 <;>
    simp [callOr, call, Proc.run_bind, Proc.run_map, h]

theorem run_busWrite (b : Bool) (s : State) :
    Proc.run (busWrite b) s =
      if (s.emit (.w b)).answer.status = 0 then (.ok (), { s.called (.w b) with line := some b })
      else (.error (.err .transport), s.called (.w b)) := by
  by_cases h : (s.emit (.w b)).answer.status = 0#8 <;>
    simp [busWrite, Proc.run_bind, run_callOr, h, setLine]

theorem run_busRead (s : State) :
    Proc.run busRead s =
      if (s.emit .r).answer.status = 0 then (.ok (s.emit .r).answer.sample, s.called .r)
      else (.error (.err .transport), s.called .r) := by
  by_cases h : (s.emit .r).answer.status = 0#8 <;>
    simp [busRead, Proc.run_map, run_callOr, h]

theorem run_busInit (s : State) :
    Proc.run busInit s =
      if (s.emit .busInit).answer.status = 0 then (.ok (), s.called .busInit)
      else (.error (.err .busInitFail), s.called .busInit) := by
  by_cases h : (s.emit .busInit).answer.status = 0#8 <;>
    simp [busInit, Proc.run_map, run_callOr, h]

theorem run_busDeinit (s : State) :
    Proc.run busDeinit s =
      if (s.emit .busDeinit).answer.status = 0 then (.ok (), s.called .busDeinit)
      else (.error (.err .busDeinitFail), s.called .busDeinit) := by
  by_cases h : (s.emit .busDeinit).answer.status = 0#8 <;>
    simp [busDeinit, Proc.run_map, run_callOr, h]

@[simp] theorem run_delayUs (n : Nat) (s : State) : Proc.run (delayUs n) s = (.ok (), s.emit (.dus n)) := rfl

@[simp] theorem run_delayMs (n : Nat) (s : State) : Proc.run (delayMs n) s = (.ok (), s.emit (.dms n)) := rfl

theorem run_readMode (s : State) :
    Proc.run readMode s =
      if s.modeReadable then (.ok s.mode, s) else (.error (.halt (.unwrittenRead .mode)), s) := by
  rw [readMode, Proc.run_bind, Proc.run_look]
  cases h : s.modeReadable <;> rfl

theorem run_readRom (s : State) :
    Proc.run readRom s =
      if s.romReadable then (.ok s.rom, s) else (.error (.halt (.unwrittenRead .rom)), s) := by
  rw [readRom, Proc.run_bind, Proc.run_look]
  cases h : s.romReadable <;> rfl

/-! ### The checks before any bus activity -/

/-- The handle and initialized checks change nothing. -/
theorem run_checkHandleInit (s : State) :
    Proc.run checkHandleInit s =
      if s.handle = .null then (.error (.err .nullHandle), s)
      else if s.inited then (.ok (), s) else (.error (.err .notInit), s) := by
  simp only [checkHandleInit, checkHandle, checkInit, Proc.run_bind, Proc.run_look, run_require]
  cases hh : s.handle <;> cases hi : s.inited <;> simp_all

theorem run_checkMode (s : State) :
    Proc.run checkMode s =
      if s.modeReadable = false then (.error (.halt (.unwrittenRead .mode)), s)
      else if s.mode.toNat ≤ 5 then (.ok (), s) else (.error (.err .modeInvalid), s) := by
  simp only [checkMode, Proc.run_bind, run_readMode]
  cases hw : s.modeReadable <;> simp

/-- The prelude of an addressed operation whose argument check is a condition: it changes nothing, and the first
failing check decides (60_exceptions.md R364). -/
theorem run_addressedPrelude (ok : Bool) (c : Cause) (s : State) :
    Proc.run (addressedPrelude (require ok c)) s =
      if s.handle = .null then (.error (.err .nullHandle), s)
      else if s.inited = false then (.error (.err .notInit), s)
      else if ok = false then (.error (.err c), s)
      else if s.modeReadable = false then (.error (.halt (.unwrittenRead .mode)), s)
      else if s.mode.toNat ≤ 5 then (.ok (), s) else (.error (.err .modeInvalid), s) := by
  simp only [addressedPrelude, Proc.run_bind, run_checkHandleInit, run_require, run_checkMode]
  cases hh : s.handle <;> cases hi : s.inited <;> cases ok <;> simp_all

end Sys2Proof.Machine
end

