-- ==== Sys2Proof/Laws/Frame.lean ====
section
/-! SUPPORT. The frame of every shared sequence: what none of them changes, and that each extends the trace and draws one
answer for each capability call in the extension (10_state.md R47, R48, R51). -/

namespace Sys2Proof.Machine

variable {α β : Type}

/-- The registers, the queue, the handle, the replies and the recorded fault are unchanged; the trace is extended, and each
capability call in the extension drew one answer. -/
structure Frame (s t : State) : Prop where
  inited : t.inited = s.inited
  mode : t.mode = s.mode
  modeWritten : t.modeWritten = s.modeWritten
  rom : t.rom = s.rom
  romWritten : t.romWritten = s.romWritten
  unwrittenFaults : t.unwrittenFaults = s.unwrittenFaults
  caps : t.caps = s.caps
  inbox : t.inbox = s.inbox
  handle : t.handle = s.handle
  replies : t.replies = s.replies
  halt : t.halt = s.halt
  trace : ∃ evs, t.trace = s.trace ++ evs ∧ t.env = s.env.drop (callCount evs)

theorem callCount_append (xs ys : List PortEvent) : callCount (xs ++ ys) = callCount xs + callCount ys :=
  List.countP_append

theorem Frame.refl (s : State) : Frame s s :=
  ⟨rfl, rfl, rfl, rfl, rfl, rfl, rfl, rfl, rfl, rfl, rfl, [], (List.append_nil _).symm, rfl⟩

theorem Frame.trans {s t u : State} (h : Frame s t) (k : Frame t u) : Frame s u := by
  obtain ⟨evs, h1, h2⟩ := h.trace
  obtain ⟨evs', k1, k2⟩ := k.trace
  exact ⟨k.inited.trans h.inited, k.mode.trans h.mode, k.modeWritten.trans h.modeWritten, k.rom.trans h.rom,
    k.romWritten.trans h.romWritten, k.unwrittenFaults.trans h.unwrittenFaults, k.caps.trans h.caps, k.inbox.trans h.inbox, k.handle.trans h.handle,
    k.replies.trans h.replies, k.halt.trans h.halt, evs ++ evs', by rw [k1, h1, List.append_assoc],
    by rw [k2, h2, List.drop_drop, callCount_append]⟩

/-- A change of transient state only. -/
theorem Frame.of_transient (s : State) (cs : Bool) (line : Option Bool) (tx : Option ScratchTx) (search : Option Search)
    (acc : Option Byte) (polls : Option Nat) (cursor : Option Cursor) :
    Frame s { s with cs := cs, line := line, tx := tx, search := search, acc := acc, polls := polls, cursor := cursor } :=
  ⟨rfl, rfl, rfl, rfl, rfl, rfl, rfl, rfl, rfl, rfl, rfl, [], (List.append_nil _).symm, rfl⟩

/-- An event that draws no answer. -/
theorem Frame.of_emit (s : State) (e : PortEvent) (h : e.isCall = false) : Frame s (s.emit e) :=
  ⟨rfl, rfl, rfl, rfl, rfl, rfl, rfl, rfl, rfl, rfl, rfl, [e], rfl, by simp [callCount, h]⟩

/-- A capability call. -/
theorem Frame.of_called (s : State) (e : PortEvent) (h : e.isCall = true) : Frame s (s.called e) :=
  ⟨rfl, rfl, rfl, rfl, rfl, rfl, rfl, rfl, rfl, rfl, rfl, [e], rfl, by simp [callCount, h]⟩

theorem Frame.of_irqOff (s : State) : Frame s s.irqOff :=
  (Frame.of_emit s .irqOff rfl).trans (Frame.of_transient _ _ _ _ _ _ _ _)

theorem Frame.of_irqOn (s : State) : Frame s s.irqOn :=
  (Frame.of_emit s .irqOn rfl).trans (Frame.of_transient _ _ _ _ _ _ _ _)

/-- A sequence all of whose exits keep the frame. -/
def Proc.Framed (m : Proc α) : Prop := ∀ s, Frame s (Proc.run m s).2

theorem Proc.framed_pure (a : α) : Framed (pure a : Proc α) := fun s => .refl s

theorem Proc.framed_look (f : State → α) : Framed (look f) := fun s => .refl s

theorem Proc.framed_fail (c : Cause) : Framed (fail c : Proc α) := fun s => .refl s

theorem Proc.framed_stop (h : Halt) : Framed (stop h : Proc α) := fun s => .refl s

theorem Proc.framed_require (ok : Bool) (c : Cause) : Framed (require ok c) := by
  cases ok
  · exact framed_fail c
  · exact framed_pure ()

theorem Proc.framed_update {f : State → State} (h : ∀ s, Frame s (f s)) : Framed (update f) := h

theorem Proc.framed_bind {m : Proc α} {f : α → Proc β} (hm : Framed m) (hf : ∀ a, Framed (f a)) : Framed (m >>= f) := by
  intro s
  have h := hm s
  rw [run_bind]
  rcases hr : run m s with ⟨_ | a, t⟩ <;> rw [hr] at h
  · exact h
  · exact h.trans (hf a t)

theorem Proc.framed_map {m : Proc α} (f : α → β) (hm : Framed m) : Framed (f <$> m) := by
  rw [map_eq_pure_bind]
  exact framed_bind hm fun _ => framed_pure _

theorem Proc.framed_ensuring {m : Proc α} {fin : State → State} (hm : Framed m) (hf : ∀ s, Frame s (fin s)) :
    Framed (m.ensuring fin) := fun s => (hm s).trans (hf _)

open Proc

/-! ### The shared operations -/

theorem framed_callOr {e : PortEvent} (c : Cause) (h : e.isCall = true) : Framed (callOr e c) := by
  refine framed_bind (fun s => .of_called s e h) fun a => ?_
  exact framed_bind (framed_require _ _) fun _ => framed_pure _

theorem framed_busInit : Framed busInit := framed_bind (framed_callOr _ rfl) fun _ => framed_pure _

theorem framed_busDeinit : Framed busDeinit := framed_bind (framed_callOr _ rfl) fun _ => framed_pure _

theorem framed_busWrite (b : Bool) : Framed (busWrite b) :=
  framed_bind (framed_callOr _ rfl) fun _ => framed_update fun s => .of_transient s _ _ _ _ _ _ _

theorem framed_busRead : Framed busRead := framed_bind (framed_callOr _ rfl) fun _ => framed_pure _

theorem framed_delayUs (n : Nat) : Framed (delayUs n) := framed_update fun s => .of_emit s _ rfl

theorem framed_delayMs (n : Nat) : Framed (delayMs n) := framed_update fun s => .of_emit s _ rfl

theorem framed_critical {m : Proc α} (hm : Framed m) : Framed (critical m) :=
  framed_bind (framed_update Frame.of_irqOff) fun _ => framed_ensuring hm Frame.of_irqOn

theorem framed_withAcc {m : Proc α} (hm : Framed m) : Framed (withAcc m) :=
  framed_bind (framed_update fun s => .of_transient s _ _ _ _ _ _ _)
    fun _ => framed_ensuring hm fun s => .of_transient s _ _ _ _ _ _ _

theorem framed_withPolls {m : Proc α} (hm : Framed m) : Framed (withPolls m) :=
  framed_bind (framed_update fun s => .of_transient s _ _ _ _ _ _ _)
    fun _ => framed_ensuring hm fun s => .of_transient s _ _ _ _ _ _ _

theorem framed_withTx (ta : Half) (data : List Byte) {m : Proc α} (hm : Framed m) : Framed (withTx ta data m) :=
  framed_bind (framed_update fun s => .of_transient s _ _ _ _ _ _ _)
    fun _ => framed_ensuring hm fun s => .of_transient s _ _ _ _ _ _ _

theorem framed_withSearch {m : Proc α} (hm : Framed m) : Framed (withSearch m) :=
  framed_bind (framed_update fun s => .of_transient s _ _ _ _ _ _ _)
    fun _ => framed_ensuring hm fun s => .of_transient s _ _ _ _ _ _ _

theorem framed_withCursor (c : Cursor) {m : Proc α} (hm : Framed m) : Framed (withCursor c m) :=
  framed_bind (framed_update fun s => .of_transient s _ _ _ _ _ _ _)
    fun _ => framed_ensuring hm fun s => .of_transient s _ _ _ _ _ _ _

theorem framed_updateTx (f : ScratchTx → ScratchTx) : Framed (updateTx f) :=
  framed_update fun s => .of_transient s _ _ _ _ _ _ _

theorem framed_updateSearch (f : Search → Search) : Framed (updateSearch f) :=
  framed_update fun s => .of_transient s _ _ _ _ _ _ _

theorem framed_advanceCursor (k : Nat) : Framed (advanceCursor k) :=
  framed_update fun s => .of_transient s _ _ _ _ _ _ _

theorem framed_readMode : Framed readMode := by
  refine framed_bind (framed_look _) fun w => ?_
  split
  · exact framed_look _
  · exact framed_stop _

theorem framed_readRom : Framed readRom := by
  refine framed_bind (framed_look _) fun w => ?_
  split
  · exact framed_look _
  · exact framed_stop _

theorem framed_checkHandleInit : Framed checkHandleInit :=
  framed_bind (framed_bind (framed_look _) fun _ => framed_require _ _) fun _ =>
    framed_bind (framed_look _) fun _ => framed_require _ _

theorem framed_addressedPrelude {m : Proc Unit} (hm : Framed m) : Framed (addressedPrelude m) :=
  framed_bind framed_checkHandleInit fun _ => framed_bind hm fun _ =>
    framed_bind framed_readMode fun _ => framed_require _ _

/-! ### Bits, bytes and resets -/

theorem framed_writeSlot (P : Profile) (b : Bool) : Framed (writeSlot P b) :=
  framed_bind (framed_busWrite _) fun _ => framed_bind (framed_delayUs _) fun _ =>
    framed_bind (framed_busWrite _) fun _ => framed_delayUs _

theorem framed_readSlot (P : Profile) : Framed (readSlot P) :=
  framed_bind (framed_busWrite _) fun _ => framed_bind (framed_delayUs _) fun _ =>
    framed_bind (framed_busWrite _) fun _ => framed_bind (framed_delayUs _) fun _ =>
      framed_bind framed_busRead fun _ => framed_bind (framed_delayUs _) fun _ => framed_pure _

theorem framed_writeSlots (P : Profile) : ∀ bs, Framed (writeSlots P bs)
  | [] => framed_pure _
  | _ :: bs => framed_bind (framed_writeSlot _ _) fun _ => framed_writeSlots P bs

theorem framed_readSlots (P : Profile) : ∀ n, Framed (readSlots P n)
  | 0 => framed_pure _
  | n + 1 => framed_bind (framed_readSlot _) fun _ =>
      framed_bind (framed_update fun s => .of_transient s _ _ _ _ _ _ _) fun _ => framed_readSlots P n

theorem framed_writeByte (p : Prof) (x : Byte) : Framed (writeByte p x) := framed_critical (framed_writeSlots _ _)

theorem framed_readByte (p : Prof) : Framed (readByte p) :=
  framed_withAcc (framed_bind (framed_critical (framed_readSlots _ _)) fun _ => framed_look _)

theorem framed_writeBytes (p : Prof) : ∀ xs, Framed (writeBytes p xs)
  | [] => framed_pure _
  | _ :: xs => framed_bind (framed_writeByte _ _) fun _ => framed_writeBytes p xs

theorem framed_readBytes (p : Prof) : ∀ n, Framed (readBytes p n)
  | 0 => framed_pure _
  | n + 1 => framed_bind (framed_readByte _) fun _ => framed_bind (framed_readBytes p n) fun _ => framed_pure _

theorem framed_pollLoop (P : Profile) (want : Bool) (budget : Nat) : ∀ n, Framed (pollLoop P want budget n)
  | 0 => framed_fail _
  | n + 1 => by
    refine framed_bind framed_busRead fun v => framed_bind (framed_update fun s => .of_transient s _ _ _ _ _ _ _) fun _ =>
      framed_bind (framed_delayUs _) fun _ => framed_bind (framed_look _) fun k => ?_
    split
    · exact framed_pure _
    · split
      · exact framed_pollLoop P want budget n
      · exact framed_fail _

theorem framed_busReset (p : Prof) : Framed (busReset p) :=
  framed_critical <| framed_bind (framed_busWrite _) fun _ => framed_bind (framed_delayUs _) fun _ =>
    framed_bind (framed_busWrite _) fun _ => framed_bind (framed_delayUs _) fun _ =>
      framed_bind (framed_withPolls (framed_pollLoop _ _ _ _)) fun _ => framed_withPolls (framed_pollLoop _ _ _ _)

/-! ### Addressing and search -/

theorem framed_sendRom (p : Prof) : Framed (sendRom p) := framed_bind framed_readRom fun _ => framed_writeBytes _ _

theorem framed_addressDevices : Framed addressDevices := by
  refine framed_bind framed_readMode fun m => ?_
  split
  · exact framed_bind (framed_busReset _) fun _ => framed_bind (framed_writeByte _ _) fun _ => framed_pure _
  · exact framed_bind (framed_busReset _) fun _ => framed_bind (framed_writeByte _ _) fun _ => framed_pure _
  · exact framed_bind (framed_busReset _) fun _ => framed_bind (framed_writeByte _ _) fun _ =>
      framed_bind (framed_sendRom _) fun _ => framed_pure _
  · exact framed_bind (framed_busReset _) fun _ => framed_bind (framed_writeByte _ _) fun _ =>
      framed_bind (framed_sendRom _) fun _ => framed_pure _
  · exact framed_bind (framed_busReset _) fun _ => framed_bind (framed_writeByte _ _) fun _ => framed_pure _
  · exact framed_bind (framed_busReset _) fun _ => framed_bind (framed_writeByte _ _) fun _ => framed_pure _
  · exact framed_fail _

theorem framed_decideDirection (p : Nat) (b c : Bool) : Framed (decideDirection p b c) := by
  unfold decideDirection
  split
  · refine framed_bind (framed_look _) fun q => ?_
    split
    · refine framed_bind (framed_bind (framed_look _) fun stk => ?_) fun _ => framed_pure _
      split
      · exact framed_updateSearch _
      · exact framed_stop _
    · split
      · exact framed_pure _
      · exact framed_bind (framed_updateSearch _) fun _ => framed_pure _
  · exact framed_pure _

theorem framed_searchTriplet (p : Nat) : Framed (searchTriplet p) := by
  refine framed_critical <| framed_bind (framed_readSlot _) fun b => framed_bind (framed_readSlot _) fun c => ?_
  split
  · exact framed_pure _
  · exact framed_bind (framed_decideDirection _ _ _) fun _ => framed_bind (framed_writeSlot _ _) fun _ => framed_pure _

theorem framed_searchPositions : ∀ n, Framed (searchPositions n)
  | 0 => framed_pure _
  | n + 1 => by
    refine framed_bind (framed_searchTriplet _) fun t => ?_
    split
    · exact framed_pure _
    · exact framed_bind (framed_updateSearch _) fun _ => framed_searchPositions n

theorem framed_searchPass (cmd : Byte) : Framed (searchPass cmd) :=
  framed_bind (framed_busReset _) fun _ => framed_bind (framed_writeByte _ _) fun _ =>
    framed_bind (framed_updateSearch _) fun _ => framed_searchPositions _

theorem framed_searchLoop (cmd : Byte) (n : Nat) : ∀ fuel, Framed (searchLoop cmd n fuel)
  | 0 => framed_pure _
  | fuel + 1 => by
    refine framed_bind (framed_searchPass _) fun full => ?_
    split
    · refine framed_bind (framed_updateSearch _) fun _ => framed_bind (framed_look _) fun q => ?_
      split
      · exact framed_pure _
      · exact framed_searchLoop cmd n fuel
    · exact framed_pure _

theorem framed_searchEngine (n : Nat) (cmd : Byte) : Framed (searchEngine n cmd) := by
  unfold searchEngine
  split
  · exact framed_pure _
  · exact framed_withSearch (framed_bind (framed_searchLoop _ _ _) fun _ => framed_look _)

/-! ### Memory transactions -/

theorem framed_sendCounted (p : Prof) : ∀ xs, Framed (sendCounted p xs)
  | [] => framed_pure _
  | _ :: xs => framed_bind (framed_writeByte _ _) fun _ => framed_bind (framed_updateTx _) fun _ => framed_sendCounted p xs

theorem framed_readCounted (p : Prof) : Framed (readCounted p) :=
  framed_bind (framed_readByte _) fun _ => framed_bind (framed_updateTx _) fun _ =>
    framed_bind (framed_updateTx _) fun _ => framed_pure _

theorem framed_readStatus (p : Prof) : Framed (readStatus p) :=
  framed_bind (framed_readByte _) fun _ => framed_bind (framed_updateTx _) fun _ => framed_pure _

theorem framed_readDataCounted (p : Prof) : ∀ n, Framed (readDataCounted p n)
  | 0 => framed_pure _
  | n + 1 => framed_bind (framed_readByte _) fun _ => framed_bind (framed_updateTx _) fun _ =>
      framed_bind (framed_updateTx _) fun _ => framed_readDataCounted p n

theorem framed_checkCrc : Framed checkCrc := framed_bind (framed_look _) fun _ => framed_require _ _

theorem framed_sendWriteScratchpad (p : Prof) : Framed (sendWriteScratchpad p) :=
  framed_bind (framed_look _) fun _ => framed_sendCounted _ _

theorem framed_copyFrame (p : Prof) : Framed (copyFrame p) :=
  framed_bind (framed_look _) fun _ => framed_bind (framed_writeBytes _ _) fun _ => framed_bind (framed_delayMs _) fun _ =>
    framed_bind (framed_readStatus _) fun _ => framed_require _ _

theorem framed_readScratchpadFrame : Framed readScratchpadFrame :=
  framed_bind framed_addressDevices fun _ => framed_bind (framed_sendCounted _ _) fun _ =>
    framed_bind (framed_readCounted _) fun _ => framed_bind (framed_readCounted _) fun _ =>
      framed_bind (framed_updateTx _) fun _ => framed_bind (framed_readCounted _) fun _ =>
        framed_bind (framed_readDataCounted _ _) fun _ => framed_bind (framed_readCounted _) fun _ =>
          framed_bind (framed_readCounted _) fun _ => framed_bind (framed_readStatus _) fun _ =>
            framed_bind (framed_require _ _) fun _ => framed_bind (framed_require _ _) fun _ =>
              framed_bind framed_checkCrc fun _ => framed_bind (framed_look _) fun _ => framed_pure _

theorem framed_memoryRead (addr : Half) (len : Nat) : Framed (memoryRead addr len) :=
  framed_bind framed_addressDevices fun _ => framed_bind (framed_writeBytes _ _) fun _ => framed_readBytes _ _

theorem framed_pageWrite (addr : Half) (data : List Byte) : Framed (pageWrite addr data) :=
  framed_withTx _ _ <| framed_bind framed_addressDevices fun _ => framed_bind (framed_sendWriteScratchpad _) fun _ =>
    framed_bind (framed_readCounted _) fun _ => framed_bind (framed_readCounted _) fun _ =>
      framed_bind framed_checkCrc fun _ => framed_bind framed_addressDevices fun _ => framed_copyFrame _

theorem framed_writeChunk (data : List Byte) (c : Cursor) : Framed (writeChunk data c) := by
  unfold writeChunk
  dsimp only
  split
  · exact framed_pageWrite _ _
  · exact framed_bind (framed_memoryRead _ _) fun _ => framed_pageWrite _ _

theorem framed_writeLoop (data : List Byte) : ∀ fuel, Framed (writeLoop data fuel)
  | 0 => framed_pure _
  | fuel + 1 => by
    refine framed_bind (framed_look _) fun c => ?_
    split
    · exact framed_pure _
    · exact framed_bind (framed_writeChunk _ _) fun _ => framed_bind (framed_advanceCursor _) fun _ =>
        framed_writeLoop data fuel

end Sys2Proof.Machine
end

