-- ==== Sys2Proof/Laws/PerInstr.lean ====
section
/-! SUPPORT. Statements about every instruction as syntax, one lemma per constructor. -/

namespace Sys2Proof.Laws.OpByte

/-- The first encoded byte is the instruction's op byte, a host operation's id is 0x01 to 0x10 and a micro-operation's 0x20 to
0x2E (30_encoding.md R102, R103), and no request is longer than a WRITE of 65535 bytes (R106). -/
def Statement (i : Instr) : Prop :=
  i.wf = true →
    (encode i).head? = some i.opByte ∧
    (i.level = .host → 0x01 ≤ i.opByte.toNat ∧ i.opByte.toNat ≤ 0x10) ∧
    (i.level = .micro → 0x20 ≤ i.opByte.toNat ∧ i.opByte.toNat ≤ 0x2E) ∧
    (encode i).length ≤ 65540

theorem init : Statement .init := by
  simp [Statement, encode, Instr.level, Instr.opByte, Instr.operandBytes]

theorem deinit : Statement .deinit := by
  simp [Statement, encode, Instr.level, Instr.opByte, Instr.operandBytes]

theorem setMode (m : Byte) : Statement (.setMode m) := by
  simp [Statement, encode, Instr.level, Instr.opByte, Instr.operandBytes]

theorem getMode : Statement .getMode := by
  simp [Statement, encode, Instr.level, Instr.opByte, Instr.operandBytes]

theorem setRom (r : Bytes8) : Statement (.setRom r) := by
  simp [Statement, encode, Instr.level, Instr.opByte, Instr.operandBytes, Bytes8.toList]

theorem getRom : Statement .getRom := by
  simp [Statement, encode, Instr.level, Instr.opByte, Instr.operandBytes]

theorem romMatch : Statement .romMatch := by
  simp [Statement, encode, Instr.level, Instr.opByte, Instr.operandBytes]

theorem read (addr len : Half) : Statement (.read addr len) := by
  simp [Statement, encode, Instr.level, Instr.opByte, Instr.operandBytes, encodeHalf]

theorem write (addr : Half) (data : List Byte) : Statement (.write addr data) := by
  intro h
  have hl : data.length < 65536 := by simpa [Instr.wf, wfWriteLength] using h
  refine ⟨rfl, by simp [Instr.opByte], by simp [Instr.level], ?_⟩
  simp only [encode, Instr.operandBytes, encodeHalf, List.length_cons, List.length_append, List.length_nil]
  omega

theorem readConfig : Statement .readConfig := by
  simp [Statement, encode, Instr.level, Instr.opByte, Instr.operandBytes]

theorem writeConfig (block : Bytes8) : Statement (.writeConfig block) := by
  simp [Statement, encode, Instr.level, Instr.opByte, Instr.operandBytes, Bytes8.toList]

theorem readScratchpad : Statement .readScratchpad := by
  simp [Statement, encode, Instr.level, Instr.opByte, Instr.operandBytes]

theorem writeScratchpad (addr : Half) (data : Bytes8) : Statement (.writeScratchpad addr data) := by
  simp [Statement, encode, Instr.level, Instr.opByte, Instr.operandBytes, encodeHalf, Bytes8.toList]

theorem copyScratchpad (addr : Half) : Statement (.copyScratchpad addr) := by
  simp [Statement, encode, Instr.level, Instr.opByte, Instr.operandBytes, encodeHalf]

theorem readMemory (addr len : Half) : Statement (.readMemory addr len) := by
  simp [Statement, encode, Instr.level, Instr.opByte, Instr.operandBytes, encodeHalf]

theorem searchRom (n : Byte) : Statement (.searchRom n) := by
  simp [Statement, encode, Instr.level, Instr.opByte, Instr.operandBytes]

theorem resetStd : Statement .resetStd := by
  simp [Statement, encode, Instr.level, Instr.opByte, Instr.operandBytes]

theorem resetOd : Statement .resetOd := by
  simp [Statement, encode, Instr.level, Instr.opByte, Instr.operandBytes]

theorem wbitStd (b : Bool) : Statement (.wbitStd b) := by
  simp [Statement, encode, Instr.level, Instr.opByte, Instr.operandBytes]

theorem wbitOd (b : Bool) : Statement (.wbitOd b) := by
  simp [Statement, encode, Instr.level, Instr.opByte, Instr.operandBytes]

theorem rbitStd : Statement .rbitStd := by
  simp [Statement, encode, Instr.level, Instr.opByte, Instr.operandBytes]

theorem rbitOd : Statement .rbitOd := by
  simp [Statement, encode, Instr.level, Instr.opByte, Instr.operandBytes]

theorem wbyteStd (x : Byte) : Statement (.wbyteStd x) := by
  simp [Statement, encode, Instr.level, Instr.opByte, Instr.operandBytes]

theorem wbyteOd (x : Byte) : Statement (.wbyteOd x) := by
  simp [Statement, encode, Instr.level, Instr.opByte, Instr.operandBytes]

theorem rbyteStd : Statement .rbyteStd := by
  simp [Statement, encode, Instr.level, Instr.opByte, Instr.operandBytes]

theorem rbyteOd : Statement .rbyteOd := by
  simp [Statement, encode, Instr.level, Instr.opByte, Instr.operandBytes]

theorem triplet (p : Byte) : Statement (.triplet p) := by
  simp [Statement, encode, Instr.level, Instr.opByte, Instr.operandBytes]

theorem address : Statement .address := by
  simp [Statement, encode, Instr.level, Instr.opByte, Instr.operandBytes]

theorem pageWrite (addr : Half) (data : Bytes8) : Statement (.pageWrite addr data) := by
  simp [Statement, encode, Instr.level, Instr.opByte, Instr.operandBytes, encodeHalf, Bytes8.toList]

theorem memRead (addr len : Half) : Statement (.memRead addr len) := by
  simp [Statement, encode, Instr.level, Instr.opByte, Instr.operandBytes, encodeHalf]

theorem searchEngine (n cmd : Byte) : Statement (.searchEngine n cmd) := by
  simp [Statement, encode, Instr.level, Instr.opByte, Instr.operandBytes]

theorem cmdSkipRom : Statement .cmdSkipRom := by
  simp [Statement, encode, Instr.level, Instr.operandBytes]

theorem cmdOdSkipRom : Statement .cmdOdSkipRom := by
  simp [Statement, encode, Instr.level, Instr.operandBytes]

theorem cmdMatchRom : Statement .cmdMatchRom := by
  simp [Statement, encode, Instr.level, Instr.operandBytes]

theorem cmdOdMatchRom : Statement .cmdOdMatchRom := by
  simp [Statement, encode, Instr.level, Instr.operandBytes]

theorem cmdResume (p : Prof) : Statement (.cmdResume p) := by
  simp [Statement, encode, Instr.level, Instr.operandBytes]

theorem cmdSearchRom : Statement .cmdSearchRom := by
  simp [Statement, encode, Instr.level, Instr.operandBytes]

theorem cmdWriteScratchpad (p : Prof) : Statement (.cmdWriteScratchpad p) := by
  simp [Statement, encode, Instr.level, Instr.operandBytes]

theorem cmdReadScratchpad (p : Prof) : Statement (.cmdReadScratchpad p) := by
  simp [Statement, encode, Instr.level, Instr.operandBytes]

theorem cmdCopyScratchpad (p : Prof) : Statement (.cmdCopyScratchpad p) := by
  simp [Statement, encode, Instr.level, Instr.operandBytes]

theorem cmdReadMemory (p : Prof) : Statement (.cmdReadMemory p) := by
  simp [Statement, encode, Instr.level, Instr.operandBytes]

end Sys2Proof.Laws.OpByte
end

