-- ==== Sys2Proof/Laws/Scripted.lean ====
section
/-! SUPPORT. What each sequence of slots, bytes and resets does when the environment's scripted answers let it succeed:
its events, its value, and that the rest of the state stays. -/

namespace Sys2Proof.Machine

/-- The state after slots inside a section: events emitted, answers used up, the line released, all else unchanged. -/
def State.slotsRan (s : State) (evs : List PortEvent) (rest : List Answer) : State :=
  { s with trace := s.trace ++ evs, env := rest, line := some true }

/-! ### Events up to a call -/

@[simp] theorem upToCall_zero (evs : List PortEvent) : upToCall 0 evs = [] := by cases evs <;> rfl

@[simp] theorem upToCall_nil (n : Nat) : upToCall n [] = [] := by cases n <;> rfl

theorem callCount_cons (e : PortEvent) (evs : List PortEvent) :
    callCount (e :: evs) = (if e.isCall then 1 else 0) + callCount evs := by
  simp only [callCount, List.countP_cons, Nat.add_comm]

/-- A call in the first part of a trace: the second part does not matter. -/
theorem upToCall_append_left (a b : List PortEvent) (n : Nat) (h : n ≤ callCount a) :
    upToCall n (a ++ b) = upToCall n a := by
  induction a generalizing n with
  | nil => simp_all [callCount]
  | cons e es ih =>
    rw [callCount_cons] at h
    cases n with
    | zero => simp
    | succ n =>
      simp only [List.cons_append, upToCall]
      by_cases hc : e.isCall = true
      · rw [if_pos hc] at h ⊢
        rw [ih _ (by omega)]
      · rw [if_neg hc] at h ⊢
        rw [ih _ (by omega)]

/-- A call in the second part of a trace: the first part is emitted whole. -/
theorem upToCall_append_right (a b : List PortEvent) (n : Nat) :
    upToCall (callCount a + (n + 1)) (a ++ b) = a ++ upToCall (n + 1) b := by
  induction a generalizing n with
  | nil => simp [callCount]
  | cons e es ih =>
    rw [callCount_cons]
    by_cases h : e.isCall = true
    · rw [if_pos h, show 1 + callCount es + (n + 1) = (callCount es + (n + 1)) + 1 by omega]
      simp only [List.cons_append, upToCall, if_pos h, ih]
    · rw [if_neg h, show 0 + callCount es + (n + 1) = (callCount es + n) + 1 by omega]
      simp only [List.cons_append, upToCall, if_neg h]
      exact congrArg (e :: ·) (ih n)

@[simp] theorem latched_nil (line : Option Bool) : latched line [] = line := rfl

theorem latched_append (line : Option Bool) (a b : List PortEvent) :
    latched line (a ++ b) = latched (latched line a) b := by
  induction a generalizing line with
  | nil => rfl
  | cons e es ih => cases e <;> exact ih _

/-! ### Answers that fit -/

@[simp] theorem fits_nil (as : List Answer) : fits [] as = true ↔ as = [] := by
  cases as <;> simp [fits]

theorem fits_cons (w : Wanted) (ws : List Wanted) (as : List Answer) :
    fits (w :: ws) as = true ↔
      ∃ a as', as = a :: as' ∧ a.status = 0 ∧ (w = none ∨ w = some a.sample) ∧ fits ws as' = true := by
  cases as with
  | nil => simp [fits]
  | cons a as => simp [fits, and_assoc]

theorem fits_length (ws : List Wanted) (as : List Answer) (h : fits ws as = true) : as.length = ws.length := by
  induction ws generalizing as with
  | nil => cases as <;> simp_all [fits]
  | cons w ws ih => cases as <;> simp_all [fits]

theorem fits_append (ws vs : List Wanted) (as : List Answer) :
    fits (ws ++ vs) as = true ↔ ∃ a1 a2, as = a1 ++ a2 ∧ fits ws a1 = true ∧ fits vs a2 = true := by
  induction ws generalizing as with
  | nil => simp
  | cons w ws ih =>
    rw [List.cons_append, fits_cons]
    simp only [ih, fits_cons]
    constructor
    · rintro ⟨a, as', rfl, h0, hw, a1, a2, rfl, h1, h2⟩
      exact ⟨a :: a1, a2, rfl, ⟨a, a1, rfl, h0, hw, h1⟩, h2⟩
    · rintro ⟨_, a2, rfl, ⟨a, a1, rfl, h0, hw, h1⟩, h2⟩
      exact ⟨a, a1 ++ a2, rfl, h0, hw, a1, a2, rfl, h1, h2⟩

/-! ### Slots -/

/-- A call whose scripted answer is `a`. -/
theorem answer_scripted {s : State} {e : PortEvent} {a : Answer} {rest : List Answer} (h : s.env = a :: rest) :
    (s.emit e).answer = a := by
  simp [State.answer, h]

theorem run_busWrite_ok {b : Bool} {s : State} {a : Answer} {rest : List Answer} (h : s.env = a :: rest)
    (h0 : a.status = 0) :
    Proc.run (busWrite b) s = (.ok (), { s with trace := s.trace ++ [PortEvent.w b], env := rest, line := some b }) := by
  rw [run_busWrite, if_pos (by rw [answer_scripted h, h0])]
  simp [State.called, State.emit, State.answered, h]

theorem run_busRead_ok {s : State} {a : Answer} {rest : List Answer} (h : s.env = a :: rest) (h0 : a.status = 0) :
    Proc.run busRead s = (.ok a.sample, { s with trace := s.trace ++ [PortEvent.r], env := rest }) := by
  rw [run_busRead, if_pos (by rw [answer_scripted h, h0]), answer_scripted h]
  simp [State.called, State.emit, State.answered, h]

theorem run_writeSlot_ok (P : Profile) (b : Bool) {s : State} {as rest : List Answer} (h : s.env = as ++ rest)
    (hf : fits (slotsWritten 1) as = true) :
    Proc.run (writeSlot P b) s = (.ok (), s.slotsRan (writeSlotTrace P b) rest) := by
  obtain ⟨a1, _, rfl, h1, -, hf⟩ := (fits_cons ..).1 hf
  obtain ⟨a2, _, rfl, h2, -, hf⟩ := (fits_cons ..).1 hf
  obtain rfl := (fits_nil _).1 hf
  rw [writeSlot, Proc.run_bind_ok (run_busWrite_ok h h1), Proc.run_bind_ok (run_delayUs _ _),
    Proc.run_bind_ok (run_busWrite_ok rfl h2), run_delayUs]
  cases b <;> simp [State.slotsRan, State.emit, writeSlotTrace]

theorem run_readSlot_ok (P : Profile) {v : Bool} {s : State} {as rest : List Answer} (h : s.env = as ++ rest)
    (hf : fits (slotRead v) as = true) :
    Proc.run (readSlot P) s = (.ok v, s.slotsRan (readSlotTrace P) rest) := by
  obtain ⟨a1, _, rfl, h1, -, hf⟩ := (fits_cons ..).1 hf
  obtain ⟨a2, _, rfl, h2, -, hf⟩ := (fits_cons ..).1 hf
  obtain ⟨a3, _, rfl, h3, hv, hf⟩ := (fits_cons ..).1 hf
  obtain rfl := (fits_nil _).1 hf
  obtain rfl : v = a3.sample := by simpa using hv
  rw [readSlot, Proc.run_bind_ok (run_busWrite_ok h h1), Proc.run_bind_ok (run_delayUs _ _),
    Proc.run_bind_ok (run_busWrite_ok rfl h2), Proc.run_bind_ok (run_delayUs _ _),
    Proc.run_bind_ok (run_busRead_ok rfl h3), Proc.run_bind_ok (run_delayUs _ _), Proc.run_pure]
  simp [State.slotsRan, State.emit, readSlotTrace]

theorem slotsRan_slotsRan (s : State) (e1 e2 : List PortEvent) (r1 r2 : List Answer) :
    (s.slotsRan e1 r1).slotsRan e2 r2 = s.slotsRan (e1 ++ e2) r2 := by
  simp [State.slotsRan]

theorem slotsWritten_add (m n : Nat) : slotsWritten (m + n) = slotsWritten m ++ slotsWritten n := by
  rw [slotsWritten, Nat.mul_add, List.replicate_add]
  rfl

/-- At least one write slot: with none the line keeps its value. -/
theorem run_writeSlots_ok (P : Profile) (b : Bool) (bs : List Bool) {s : State} {as rest : List Answer}
    (h : s.env = as ++ rest) (hf : fits (slotsWritten (bs.length + 1)) as = true) :
    Proc.run (writeSlots P (b :: bs)) s = (.ok (), s.slotsRan ((b :: bs).flatMap (writeSlotTrace P)) rest) := by
  induction bs generalizing b s as with
  | nil =>
    rw [writeSlots, Proc.run_bind_ok (run_writeSlot_ok P b h hf)]
    simp [writeSlots]
  | cons c bs ih =>
    rw [List.length_cons, Nat.add_comm, slotsWritten_add, fits_append] at hf
    obtain ⟨a1, a2, rfl, hf1, hf2⟩ := hf
    rw [List.append_assoc] at h
    rw [writeSlots, Proc.run_bind_ok (run_writeSlot_ok P b h hf1), ih c rfl hf2, slotsRan_slotsRan]
    rfl

/-! ### Bytes -/

theorem wireBits_eq (x : Byte) : wireBits x = lsbFirst x := rfl

theorem lsbFirst_cons (x : Byte) : ∃ b bs, lsbFirst x = b :: bs ∧ bs.length = 7 := ⟨_, _, rfl, rfl⟩

theorem run_critical_ok {α : Type} {m : Proc α} {s : State} {a : α} {evs : List PortEvent} {rest : List Answer}
    (h : Proc.run m s.irqOff = (.ok a, s.irqOff.slotsRan evs rest)) :
    Proc.run (critical m) s = (.ok a, s.ran (PortEvent.irqOff :: (evs ++ [PortEvent.irqOn])) rest) := by
  rw [run_critical, h]
  simp [State.slotsRan, State.irqOff, State.irqOn, State.emit, State.ran]

/-- A sent byte, least significant bit first, in one critical section. -/
theorem run_writeByte_ok (p : Prof) (x : Byte) {s : State} {as rest : List Answer} (h : s.env = as ++ rest)
    (hf : fits (bytesWritten 1) as = true) :
    Proc.run (writeByte p x) s = (.ok (), s.ran (byteWriteTrace p x) rest) := by
  obtain ⟨b, bs, hb, hl⟩ := lsbFirst_cons x
  refine run_critical_ok (m := writeSlots p.timing (wireBits x)) ?_
  rw [wireBits_eq, hb]
  exact run_writeSlots_ok _ b bs h (by rw [hl]; exact hf)

/-- The shift register after read slots that sample `vs`. -/
def shifted (acc : Byte) (vs : List Bool) : Byte := vs.foldl shiftInBit acc

theorem run_readSlots_ok (P : Profile) (v : Bool) (vs : List Bool) {s : State} {as rest : List Answer}
    (h : s.env = as ++ rest) (hf : fits ((v :: vs).flatMap slotRead) as = true) :
    Proc.run (readSlots P (vs.length + 1)) s =
      (.ok (), { s.slotsRan ((List.range (vs.length + 1)).flatMap fun _ => readSlotTrace P) rest with
        acc := some (shifted s.accValue (v :: vs)) }) := by
  induction vs generalizing v s as with
  | nil =>
    rw [List.flatMap_cons, fits_append] at hf
    obtain ⟨a1, a2, rfl, hf1, hf2⟩ := hf
    obtain rfl := (fits_nil _).1 hf2
    rw [List.append_nil] at h
    rw [List.length_nil, readSlots, Proc.run_bind_ok (run_readSlot_ok P h hf1), shiftIn,
      Proc.run_bind_ok (Proc.run_update _ _)]
    rfl
  | cons c vs ih =>
    rw [List.flatMap_cons, fits_append] at hf
    obtain ⟨a1, a2, rfl, hf1, hf2⟩ := hf
    rw [List.append_assoc] at h
    rw [List.length_cons, readSlots, Proc.run_bind_ok (run_readSlot_ok P h hf1), shiftIn,
      Proc.run_bind_ok (Proc.run_update _ _), ih c rfl hf2]
    rw [List.range_succ_eq_map (n := vs.length + 1), List.flatMap_cons, List.flatMap_map]
    simp [State.slotsRan, State.accValue, shifted]

/-- Eight samples, least significant bit first, assemble their byte whatever the register held (41_byte_transport.md R173). -/
theorem shifted_lsbFirst (acc x : Byte) : shifted acc (lsbFirst x) = x := by
  simp only [shifted, lsbFirst, List.range, List.range.loop, List.map_cons, List.map_nil, List.foldl_cons, List.foldl_nil,
    shiftInBit]
  apply BitVec.eq_of_getLsbD_eq
  intro i hi
  have hone : ∀ b : Bool, (if b = true then (1#8) else 0#8)[0] = b := fun b => by cases b <;> simp
  interval_cases i <;> simp [hone]

/-- A received byte: the bits sampled, least significant first, in one critical section. -/
theorem run_readByte_ok (p : Prof) {x : Byte} {s : State} {as rest : List Answer} (h : s.env = as ++ rest)
    (hf : fits (bytesRead [x]) as = true) :
    Proc.run (readByte p) s = (.ok x, { s.ran (byteReadTrace p) rest with acc := none }) := by
  have hf' : fits ((x.getLsbD 0 :: (lsbFirst x).tail).flatMap slotRead) as = true := by
    rw [bytesRead, List.flatMap_cons, List.flatMap_nil, List.append_nil] at hf
    exact hf
  have hslots := run_readSlots_ok p.timing (x.getLsbD 0) (lsbFirst x).tail
    (s := ({ s with acc := some 0 } : State).irqOff) h hf'
  rw [readByte, run_withAcc]
  have hc : Proc.run (critical (readSlots p.timing 8)) { s with acc := some 0 } =
      (.ok (), { s.ran (byteReadTrace p) rest with acc := some x }) := by
    rw [show readSlots p.timing 8 = readSlots p.timing ((lsbFirst x).tail.length + 1) from rfl, run_critical, hslots]
    rw [show x.getLsbD 0 :: (lsbFirst x).tail = lsbFirst x from rfl, shifted_lsbFirst]
    simp [State.slotsRan, State.irqOff, State.irqOn, State.emit, State.ran, byteReadTrace, lsbFirst]
  rw [Proc.run_bind_ok hc, Proc.run_look]
  rfl

theorem ran_ran (s : State) (e1 e2 : List PortEvent) (r1 r2 : List Answer) :
    (s.ran e1 r1).ran e2 r2 = s.ran (e1 ++ e2) r2 := by
  simp [State.ran]

theorem bytesWritten_add (m n : Nat) : bytesWritten (m + n) = bytesWritten m ++ bytesWritten n := by
  rw [bytesWritten, Nat.mul_add, slotsWritten_add]
  rfl

/-- At least one sent byte: with none nothing changes. -/
theorem run_writeBytes_ok (p : Prof) (x : Byte) (xs : List Byte) {s : State} {as rest : List Answer}
    (h : s.env = as ++ rest) (hf : fits (bytesWritten (xs.length + 1)) as = true) :
    Proc.run (writeBytes p (x :: xs)) s = (.ok (), s.ran (bytesWriteTrace p (x :: xs)) rest) := by
  induction xs generalizing x s as with
  | nil =>
    rw [writeBytes, Proc.run_bind_ok (run_writeByte_ok p x h hf)]
    simp [writeBytes, bytesWriteTrace]
  | cons y xs ih =>
    rw [List.length_cons, Nat.add_comm, bytesWritten_add, fits_append] at hf
    obtain ⟨a1, a2, rfl, hf1, hf2⟩ := hf
    rw [List.append_assoc] at h
    rw [writeBytes, Proc.run_bind_ok (run_writeByte_ok p x h hf1), ih y rfl hf2, ran_ran]
    rfl

/-- At least one received byte: with none nothing changes. -/
theorem run_readBytes_ok (p : Prof) (x : Byte) (xs : List Byte) {s : State} {as rest : List Answer} (hacc : s.acc = none)
    (h : s.env = as ++ rest) (hf : fits (bytesRead (x :: xs)) as = true) :
    Proc.run (readBytes p (xs.length + 1)) s = (.ok (x :: xs), s.ran (bytesReadTrace p (xs.length + 1)) rest) := by
  have hnone : ∀ (s : State) (evs : List PortEvent) (rest : List Answer), s.acc = none →
      { s.ran evs rest with acc := none } = s.ran evs rest := by
    intro s evs rest hs
    simp [State.ran, hs]
  induction xs generalizing x s as with
  | nil =>
    rw [List.length_nil, readBytes, Proc.run_bind_ok (run_readByte_ok p h hf)]
    simp [readBytes, bytesReadTrace, hnone _ _ _ hacc]
  | cons y xs ih =>
    rw [bytesRead, List.flatMap_cons, fits_append] at hf
    obtain ⟨a1, a2, rfl, hf1, hf2⟩ := hf
    rw [List.append_assoc] at h
    have hf1' : fits (bytesRead [x]) a1 = true := by
      rw [bytesRead, List.flatMap_cons, List.flatMap_nil, List.append_nil]
      exact hf1
    rw [List.length_cons, readBytes, Proc.run_bind_ok (run_readByte_ok p h hf1'), hnone _ _ _ hacc,
      Proc.run_bind_ok (ih y (s := s.ran (byteReadTrace p) (a2 ++ rest)) hacc rfl hf2), Proc.run_pure, ran_ran]
    rw [bytesReadTrace, bytesReadTrace, List.range_succ_eq_map (n := xs.length + 1), List.flatMap_cons, List.flatMap_map]

/-! ### Resets -/

/-- A poll phase whose `k`-th sample is the first that is `want`, within its budget. -/
theorem run_pollLoop_ok (P : Profile) (want : Bool) (budget : Nat) (k : Nat) :
    ∀ (fuel : Nat) {s : State} {as rest : List Answer}, k + 1 ≤ fuel → s.pollCount + k + 1 ≤ budget → s.env = as ++ rest →
      fits (List.replicate k (some (!want)) ++ [some want]) as = true →
      ∃ c, Proc.run (pollLoop P want budget fuel) s =
        (.ok (), { s with
          trace := s.trace ++ (List.range (k + 1)).flatMap fun _ => [PortEvent.r, PortEvent.dus P.tPOLL]
          env := rest
          polls := some c }) := by
  induction k with
  | zero =>
    intro fuel s as rest hk hb h hf
    obtain ⟨fuel, rfl⟩ : ∃ f, fuel = f + 1 := ⟨fuel - 1, by omega⟩
    obtain ⟨a, _, rfl, h0, hv, hf⟩ := (fits_cons ..).1 hf
    obtain rfl := (fits_nil _).1 hf
    obtain rfl : want = a.sample := by simpa using hv
    refine ⟨s.pollCount + 1, ?_⟩
    rw [pollLoop, Proc.run_bind_ok (run_busRead_ok h h0), countPoll, Proc.run_bind_ok (Proc.run_update _ _),
      Proc.run_bind_ok (run_delayUs _ _), Proc.run_bind_ok (Proc.run_look _ _), if_pos rfl, Proc.run_pure]
    simp [State.emit, State.pollCount, List.range_succ]
  | succ k ih =>
    intro fuel s as rest hk hb h hf
    obtain ⟨fuel, rfl⟩ : ∃ f, fuel = f + 1 := ⟨fuel - 1, by omega⟩
    rw [List.replicate_succ, List.cons_append] at hf
    obtain ⟨a, as', rfl, h0, hv, hf⟩ := (fits_cons ..).1 hf
    have hv : a.sample ≠ want := by
      intro hw
      rw [hw] at hv
      cases want <;> simp at hv
    have hpoll : ({ s with trace := s.trace ++ [PortEvent.r], env := as' ++ rest, polls := some (s.pollCount + 1) } :
        State).pollCount = s.pollCount + 1 := rfl
    obtain ⟨c, hc⟩ := ih fuel (s := ({ s with
        trace := s.trace ++ [PortEvent.r], env := as' ++ rest, polls := some (s.pollCount + 1) } : State).emit
          (.dus P.tPOLL)) (as := as') (rest := rest) (by omega) (by show s.pollCount + 1 + k + 1 ≤ budget; omega) rfl hf
    refine ⟨c, ?_⟩
    rw [pollLoop, Proc.run_bind_ok (run_busRead_ok h h0), countPoll, Proc.run_bind_ok (Proc.run_update _ _),
      Proc.run_bind_ok (run_delayUs _ _), Proc.run_bind_ok (Proc.run_look _ _), if_neg hv,
      if_pos (by show s.pollCount + 1 < budget; omega)]
    refine hc.trans ?_
    rw [List.range_succ_eq_map (n := k + 1), List.flatMap_cons, List.flatMap_map]
    simp [State.emit]

theorem run_pollPhase_ok (P : Profile) (want : Bool) (budget k : Nat) {s : State} {as rest : List Answer}
    (h1 : 1 ≤ k) (hb : k ≤ budget) (hp : s.polls = none) (h : s.env = as ++ rest)
    (hf : fits (List.replicate (k - 1) (some (!want)) ++ [some want]) as = true) :
    Proc.run (pollPhase P want budget) s =
      (.ok (), { s with
        trace := s.trace ++ (List.range k).flatMap fun _ => [PortEvent.r, PortEvent.dus P.tPOLL]
        env := rest }) := by
  obtain ⟨k, rfl⟩ : ∃ j, k = j + 1 := ⟨k - 1, by omega⟩
  obtain ⟨c, hc⟩ := run_pollLoop_ok P want budget k budget (s := { s with polls := some 0 }) (rest := rest) hb
    (by show 0 + k + 1 ≤ budget; omega) h hf
  rw [pollPhase, run_withPolls, hc]
  simp [hp]

/-- A reset that detects presence at the `k1`-th sample of phase 1 and its end at the `k2`-th of phase 2. -/
theorem run_busReset_ok (p : Prof) {k1 k2 : Nat} {s : State} {as rest : List Answer} (hp : s.polls = none)
    (hk : PollsWithin p k1 k2) (h : s.env = as ++ rest) (hf : fits (resetPresent k1 k2) as = true) :
    Proc.run (busReset p) s = (.ok (), s.ran (resetTrace p (k1 + k2)) rest) := by
  obtain ⟨h1, hb1, h2, hb2⟩ := hk
  rw [resetPresent, List.append_assoc, List.append_assoc, List.append_assoc, List.cons_append, List.cons_append,
    List.nil_append] at hf
  obtain ⟨w1, _, rfl, hw1, -, hf⟩ := (fits_cons ..).1 hf
  obtain ⟨w2, _, rfl, hw2, -, hf⟩ := (fits_cons ..).1 hf
  rw [← List.append_assoc, fits_append] at hf
  obtain ⟨a1, a2, rfl, hf1, hf2⟩ := hf
  have h : s.irqOff.env = w1 :: w2 :: (a1 ++ (a2 ++ rest)) := by simpa using h
  have hpolls : ∀ u : State, u.polls = none → u.env = a1 ++ (a2 ++ rest) →
      Proc.run (pollPhase p.timing false p.timing.nPDL >>= fun _ => pollPhase p.timing true p.timing.nPDH) u =
        (.ok (), { u with
          trace := u.trace ++ (List.range (k1 + k2)).flatMap fun _ => [PortEvent.r, PortEvent.dus p.timing.tPOLL]
          env := rest }) := by
    intro u hu he
    rw [Proc.run_bind_ok (run_pollPhase_ok p.timing false p.timing.nPDL k1 h1 hb1 hu he hf1),
      run_pollPhase_ok p.timing true p.timing.nPDH k2 h2 hb2 (by exact hu) (by rfl) hf2,
      List.range_add, List.flatMap_append, List.flatMap_map]
    simp
  refine run_critical_ok (evs := [PortEvent.w false, .dus p.timing.tRSTL, .w true, .dus p.timing.tRSTH]
    ++ (List.range (k1 + k2)).flatMap fun _ => [PortEvent.r, .dus p.timing.tPOLL]) ?_
  rw [Proc.run_bind_ok (run_busWrite_ok h hw1), Proc.run_bind_ok (run_delayUs _ _),
    Proc.run_bind_ok (run_busWrite_ok rfl hw2), Proc.run_bind_ok (run_delayUs _ _), hpolls]
  · simp [State.slotsRan, State.emit, State.irqOff]
  · exact hp
  · rfl

end Sys2Proof.Machine
end

