-- ==== Sys2Proof/Laws/Sections.lean ====
section
/-! SUPPORT. Everything a critical section can do, whatever the environment answers: the events and the transient state after
a byte operation, a reset and a search triplet, and the bounds on their events (00_scope.md R13, 41_byte_transport.md R170,
42_reset_presence.md R197, 60_exceptions.md R368). -/

namespace Sys2Proof.Machine

variable {α β : Type}

/-- An event of a slot or a poll: a line event or a microsecond delay. -/
def isLineEvent : PortEvent → Bool
  | .w _ | .r | .dus _ => true
  | .dms _ | .busInit | .busDeinit | .irqOff | .irqOn => false

/-- At most `n` line events; outside the shift register, the poll counter and the search state nothing transient changes. -/
structure LineOnly (n : Nat) (s t : State) : Prop where
  cs : t.cs = s.cs
  tx : t.tx = s.tx
  cursor : t.cursor = s.cursor
  trace : ∃ evs, t.trace = s.trace ++ evs ∧ evs.length ≤ n ∧ ∀ e ∈ evs, isLineEvent e = true

/-- The shift register, the poll counter and the search state are unchanged. -/
structure Still (s t : State) : Prop where
  acc : t.acc = s.acc
  polls : t.polls = s.polls
  search : t.search = s.search

theorem LineOnly.refl (n : Nat) (s : State) : LineOnly n s s :=
  ⟨rfl, rfl, rfl, [], (List.append_nil _).symm, Nat.zero_le _, by simp⟩

theorem LineOnly.trans {m n : Nat} {s t u : State} (h : LineOnly m s t) (k : LineOnly n t u) : LineOnly (m + n) s u := by
  obtain ⟨e1, h1, h2, h3⟩ := h.trace
  obtain ⟨e2, k1, k2, k3⟩ := k.trace
  refine ⟨k.cs.trans h.cs, k.tx.trans h.tx, k.cursor.trans h.cursor, e1 ++ e2, by rw [k1, h1, List.append_assoc], ?_, ?_⟩
  · rw [List.length_append]
    omega
  · intro e he
    rcases List.mem_append.1 he with he | he
    · exact h3 e he
    · exact k3 e he

theorem LineOnly.mono {m n : Nat} {s t : State} (h : LineOnly m s t) (hmn : m ≤ n) : LineOnly n s t := by
  obtain ⟨e, h1, h2, h3⟩ := h.trace
  exact ⟨h.cs, h.tx, h.cursor, e, h1, h2.trans hmn, h3⟩

theorem Still.refl (s : State) : Still s s := ⟨rfl, rfl, rfl⟩

theorem Still.trans {s t u : State} (h : Still s t) (k : Still t u) : Still s u :=
  ⟨k.acc.trans h.acc, k.polls.trans h.polls, k.search.trans h.search⟩

/-- Every exit of a sequence emits at most `n` line events. -/
def Proc.Lines (n : Nat) (m : Proc α) : Prop := ∀ s, LineOnly n s (Proc.run m s).2

/-- Every exit of a sequence leaves the shift register, the poll counter and the search state. -/
def Proc.Stills (m : Proc α) : Prop := ∀ s, Still s (Proc.run m s).2

theorem Proc.lines_bind {k n : Nat} {m : Proc α} {f : α → Proc β} (hm : Proc.Lines k m) (hf : ∀ a, Proc.Lines n (f a)) :
    Proc.Lines (k + n) (m >>= f) := by
  intro s
  have h := hm s
  rw [Proc.run_bind]
  rcases hr : Proc.run m s with ⟨_ | a, t⟩ <;> rw [hr] at h
  · exact h.mono (Nat.le_add_right ..)
  · exact h.trans (hf a t)

theorem Proc.lines_mono {k n : Nat} {m : Proc α} (h : Proc.Lines k m) (hkn : k ≤ n) : Proc.Lines n m :=
  fun s => (h s).mono hkn

theorem Proc.lines_pure (n : Nat) (a : α) : Proc.Lines n (pure a : Proc α) := fun s => .refl n s

theorem Proc.lines_fail (n : Nat) (c : Cause) : Proc.Lines n (Proc.fail c : Proc α) := fun s => .refl n s

theorem Proc.lines_look (n : Nat) (f : State → α) : Proc.Lines n (Proc.look f) := fun s => .refl n s

theorem Proc.stills_bind {m : Proc α} {f : α → Proc β} (hm : Proc.Stills m) (hf : ∀ a, Proc.Stills (f a)) :
    Proc.Stills (m >>= f) := by
  intro s
  have h := hm s
  rw [Proc.run_bind]
  rcases hr : Proc.run m s with ⟨_ | a, t⟩ <;> rw [hr] at h
  · exact h
  · exact h.trans (hf a t)

theorem Proc.stills_pure (a : α) : Proc.Stills (pure a : Proc α) := fun s => .refl s

/-! ### Slots -/

theorem lines_busWrite (b : Bool) : Proc.Lines 1 (busWrite b) := by
  intro s
  rw [run_busWrite]
  split <;> exact ⟨rfl, rfl, rfl, [.w b], rfl, Nat.le_refl _, by simp [isLineEvent]⟩

theorem lines_busRead : Proc.Lines 1 busRead := by
  intro s
  rw [run_busRead]
  split <;> exact ⟨rfl, rfl, rfl, [.r], rfl, Nat.le_refl _, by simp [isLineEvent]⟩

theorem lines_delayUs (n : Nat) : Proc.Lines 1 (delayUs n) :=
  fun _ => ⟨rfl, rfl, rfl, [.dus n], rfl, Nat.le_refl _, by simp [isLineEvent]⟩

theorem stills_busWrite (b : Bool) : Proc.Stills (busWrite b) := by
  intro s
  rw [run_busWrite]
  split <;> exact ⟨rfl, rfl, rfl⟩

theorem stills_busRead : Proc.Stills busRead := by
  intro s
  rw [run_busRead]
  split <;> exact ⟨rfl, rfl, rfl⟩

theorem stills_delayUs (n : Nat) : Proc.Stills (delayUs n) := fun _ => ⟨rfl, rfl, rfl⟩

theorem lines_writeSlot (P : Profile) (b : Bool) : Proc.Lines 4 (writeSlot P b) :=
  Proc.lines_bind (lines_busWrite _) fun _ => Proc.lines_bind (lines_delayUs _) fun _ =>
    Proc.lines_bind (n := 1) (lines_busWrite _) fun _ => lines_delayUs _

theorem stills_writeSlot (P : Profile) (b : Bool) : Proc.Stills (writeSlot P b) :=
  Proc.stills_bind (stills_busWrite _) fun _ => Proc.stills_bind (stills_delayUs _) fun _ =>
    Proc.stills_bind (stills_busWrite _) fun _ => stills_delayUs _

theorem lines_readSlot (P : Profile) : Proc.Lines 6 (readSlot P) :=
  Proc.lines_bind (lines_busWrite _) fun _ => Proc.lines_bind (lines_delayUs _) fun _ =>
    Proc.lines_bind (lines_busWrite _) fun _ => Proc.lines_bind (lines_delayUs _) fun _ =>
      Proc.lines_bind (n := 1) lines_busRead fun _ => Proc.lines_bind (n := 0) (lines_delayUs _) fun _ => Proc.lines_pure _ _

theorem stills_readSlot (P : Profile) : Proc.Stills (readSlot P) :=
  Proc.stills_bind (stills_busWrite _) fun _ => Proc.stills_bind (stills_delayUs _) fun _ =>
    Proc.stills_bind (stills_busWrite _) fun _ => Proc.stills_bind (stills_delayUs _) fun _ =>
      Proc.stills_bind stills_busRead fun _ => Proc.stills_bind (stills_delayUs _) fun _ => Proc.stills_pure _

theorem lines_writeSlots (P : Profile) : ∀ bs : List Bool, Proc.Lines (4 * bs.length) (writeSlots P bs)
  | [] => Proc.lines_pure _ _
  | b :: bs =>
    Proc.lines_mono (Proc.lines_bind (lines_writeSlot P b) fun _ => lines_writeSlots P bs) (by rw [List.length_cons]; omega)

theorem stills_writeSlots (P : Profile) : ∀ bs : List Bool, Proc.Stills (writeSlots P bs)
  | [] => Proc.stills_pure _
  | b :: bs => Proc.stills_bind (stills_writeSlot P b) fun _ => stills_writeSlots P bs

theorem lines_shiftIn (v : Bool) : Proc.Lines 0 (shiftIn v) :=
  fun _ => ⟨rfl, rfl, rfl, [], (List.append_nil _).symm, Nat.le_refl _, by simp⟩

theorem lines_readSlots (P : Profile) : ∀ n, Proc.Lines (6 * n) (readSlots P n)
  | 0 => Proc.lines_pure _ _
  | n + 1 =>
    Proc.lines_mono (Proc.lines_bind (lines_readSlot P) fun _ => Proc.lines_bind (lines_shiftIn _) fun _ => lines_readSlots P n)
      (by omega)

theorem polls_search_readSlots (P : Profile) : ∀ n s, (Proc.run (readSlots P n) s).2.polls = s.polls ∧
    (Proc.run (readSlots P n) s).2.search = s.search
  | 0, _ => ⟨rfl, rfl⟩
  | n + 1, s => by
    have h := stills_readSlot P s
    rw [readSlots, Proc.run_bind]
    rcases hr : Proc.run (readSlot P) s with ⟨_ | v, t⟩ <;> rw [hr] at h
    · exact ⟨h.polls, h.search⟩
    · have hs : Proc.run (shiftIn v) t = (.ok (), { t with acc := some (shiftInBit t.accValue v) }) := rfl
      dsimp only
      rw [Proc.run_bind_ok hs]
      have k := polls_search_readSlots P n { t with acc := some (shiftInBit t.accValue v) }
      exact ⟨k.1.trans h.polls, k.2.trans h.search⟩

theorem lines_pollLoop (P : Profile) (want : Bool) (budget : Nat) : ∀ n, Proc.Lines (2 * n) (pollLoop P want budget n)
  | 0 => Proc.lines_fail _ _
  | n + 1 => by
    have hc : Proc.Lines 0 countPoll :=
      fun _ => ⟨rfl, rfl, rfl, [], (List.append_nil _).symm, Nat.le_refl _, by simp⟩
    refine Proc.lines_mono (Proc.lines_bind lines_busRead fun v => Proc.lines_bind hc fun _ =>
      Proc.lines_bind (lines_delayUs _) fun _ => Proc.lines_bind (k := 0) (n := 2 * n) (Proc.lines_look _ _) fun k => ?_)
      (by omega)
    split
    · exact Proc.lines_pure _ _
    · split
      · exact lines_pollLoop P want budget n
      · exact Proc.lines_fail _ _

theorem acc_search_pollLoop (P : Profile) (want : Bool) (budget : Nat) : ∀ n s,
    (Proc.run (pollLoop P want budget n) s).2.acc = s.acc ∧ (Proc.run (pollLoop P want budget n) s).2.search = s.search
  | 0, _ => ⟨rfl, rfl⟩
  | n + 1, s => by
    have h := stills_busRead s
    rw [pollLoop, Proc.run_bind]
    rcases hr : Proc.run busRead s with ⟨_ | v, t⟩ <;> rw [hr] at h
    · exact ⟨h.acc, h.search⟩
    · dsimp only
      rw [countPoll, Proc.run_bind_ok (Proc.run_update _ _), Proc.run_bind_ok (run_delayUs _ _),
        Proc.run_bind_ok (Proc.run_look _ _)]
      split
      · exact ⟨h.acc, h.search⟩
      · split
        · have k := acc_search_pollLoop P want budget n
            (({ t with polls := some (t.pollCount + 1) } : State).emit (.dus P.tPOLL))
          exact ⟨k.1.trans h.acc, k.2.trans h.search⟩
        · exact ⟨h.acc, h.search⟩

/-! ### Sections -/

/-- One critical section of at most `n` events, IRQ_OFF and IRQ_ON included; CS is 0 after it. -/
structure OneSection (n : Nat) (s t : State) : Prop where
  cs : t.cs = false
  tx : t.tx = s.tx
  cursor : t.cursor = s.cursor
  trace : ∃ mid, t.trace = s.trace ++ (PortEvent.irqOff :: (mid ++ [PortEvent.irqOn])) ∧ mid.length + 2 ≤ n ∧
    ∀ e ∈ mid, isLineEvent e = true

theorem oneSection_critical {n : Nat} {m : Proc α} (hm : Proc.Lines n m) (s : State) :
    OneSection (n + 2) s (Proc.run (critical m) s).2 := by
  rw [run_critical]
  have h := hm s.irqOff
  obtain ⟨mid, h1, h2, h3⟩ := h.trace
  refine ⟨rfl, h.tx, h.cursor, mid, ?_, by omega, h3⟩
  show (Proc.run m s.irqOff).2.trace ++ [PortEvent.irqOn] = _
  rw [h1]
  simp [State.irqOff, State.emit]

theorem oneSection_writeByte (p : Prof) (x : Byte) (s : State) : OneSection 34 s (Proc.run (writeByte p x) s).2 :=
  oneSection_critical (lines_writeSlots p.timing (wireBits x)) s

theorem still_writeByte (p : Prof) (x : Byte) : Proc.Stills (writeByte p x) := by
  intro s
  rw [writeByte, run_critical]
  have h := stills_writeSlots p.timing (wireBits x) s.irqOff
  exact ⟨h.acc, h.polls, h.search⟩

/-- A byte read is one section, and discards the shift register on every exit. -/
theorem oneSection_readByte (p : Prof) (s : State) :
    OneSection 50 s (Proc.run (readByte p) s).2 ∧ (Proc.run (readByte p) s).2.acc = none ∧
      (Proc.run (readByte p) s).2.polls = s.polls ∧ (Proc.run (readByte p) s).2.search = s.search := by
  have hsec := oneSection_critical (lines_readSlots p.timing 8) { s with acc := some 0 }
  have hps := polls_search_readSlots p.timing 8 ({ s with acc := some 0 } : State).irqOff
  have hrun : (Proc.run (readByte p) s).2 =
      { (Proc.run (critical (readSlots p.timing 8)) { s with acc := some 0 }).2 with acc := none } := by
    rw [readByte, run_withAcc, Proc.run_bind]
    rcases Proc.run (critical (readSlots p.timing 8)) { s with acc := some 0 } with ⟨_ | _, _⟩ <;> rfl
  rw [hrun]
  exact ⟨⟨hsec.cs, hsec.tx, hsec.cursor, hsec.trace⟩, rfl, hps.1, hps.2⟩

theorem lines_pollPhase (P : Profile) (want : Bool) (budget : Nat) : Proc.Lines (2 * budget) (pollPhase P want budget) := by
  intro s
  have h := lines_pollLoop P want budget budget { s with polls := some 0 }
  rw [pollPhase, run_withPolls]
  exact ⟨h.cs, h.tx, h.cursor, h.trace⟩

theorem acc_search_pollPhase (P : Profile) (want : Bool) (budget : Nat) (s : State) :
    (Proc.run (pollPhase P want budget) s).2.acc = s.acc ∧ (Proc.run (pollPhase P want budget) s).2.search = s.search :=
  acc_search_pollLoop P want budget budget { s with polls := some 0 }

/-- A reset is one section of at most 886 events in the standard profile and 86 in overdrive. -/
theorem oneSection_busReset (p : Prof) (s : State) :
    OneSection (6 + 2 * p.timing.nPDL + 2 * p.timing.nPDH) s (Proc.run (busReset p) s).2 := by
  have h := oneSection_critical (Proc.lines_bind (lines_busWrite false) fun _ =>
    Proc.lines_bind (lines_delayUs p.timing.tRSTL) fun _ => Proc.lines_bind (lines_busWrite true) fun _ =>
      Proc.lines_bind (lines_delayUs p.timing.tRSTH) fun _ =>
        Proc.lines_bind (lines_pollPhase p.timing false p.timing.nPDL) fun _ =>
          lines_pollPhase p.timing true p.timing.nPDH) s
  obtain ⟨mid, h1, h2, h3⟩ := h.trace
  exact ⟨h.cs, h.tx, h.cursor, mid, h1, by omega, h3⟩

/-- A reset leaves no poll counter where there was none. -/
theorem still_busReset (p : Prof) (s : State) (hp : s.polls = none) : Still s (Proc.run (busReset p) s).2 := by
  have hphase : ∀ (want : Bool) (budget : Nat) (u : State), u.polls = none →
      Still u (Proc.run (pollPhase p.timing want budget) u).2 := fun want budget u hu =>
    ⟨(acc_search_pollPhase ..).1, by rw [pollPhase, run_withPolls]; exact hu.symm, (acc_search_pollPhase ..).2⟩
  have hpre : Proc.Stills (busWrite false >>= fun _ => delayUs p.timing.tRSTL >>= fun _ => busWrite true >>= fun _ =>
      delayUs p.timing.tRSTH) :=
    Proc.stills_bind (stills_busWrite _) fun _ => Proc.stills_bind (stills_delayUs _) fun _ =>
      Proc.stills_bind (stills_busWrite _) fun _ => stills_delayUs _
  have hbody : ∀ u : State, u.polls = none → Still u (Proc.run ((busWrite false >>= fun _ => delayUs p.timing.tRSTL
      >>= fun _ => busWrite true >>= fun _ => delayUs p.timing.tRSTH) >>= fun _ =>
        (pollPhase p.timing false p.timing.nPDL >>= fun _ => pollPhase p.timing true p.timing.nPDH)) u).2 := by
    intro u hu
    have h := hpre u
    rw [Proc.run_bind]
    rcases hr : Proc.run (busWrite false >>= fun _ => delayUs p.timing.tRSTL >>= fun _ => busWrite true >>= fun _ =>
      delayUs p.timing.tRSTH) u with ⟨_ | _, t⟩ <;> rw [hr] at h
    · exact h
    · dsimp only
      have h1 := hphase false p.timing.nPDL t (h.polls.trans hu)
      rw [Proc.run_bind]
      rcases hr1 : Proc.run (pollPhase p.timing false p.timing.nPDL) t with ⟨_ | _, t1⟩ <;> rw [hr1] at h1
      · exact h.trans h1
      · exact (h.trans h1).trans (hphase true p.timing.nPDH t1 (h1.polls.trans (h.polls.trans hu)))
  have h := hbody s.irqOff hp
  rw [busReset, run_critical]
  simp only [bind_assoc] at h
  exact ⟨h.acc, h.polls, h.search⟩

/-! ### Search triplets -/

theorem lines_updateSearch (f : Search → Search) : Proc.Lines 0 (updateSearch f) :=
  fun _ => ⟨rfl, rfl, rfl, [], (List.append_nil _).symm, Nat.le_refl _, by simp⟩

theorem lines_decideDirection (p : Nat) (b c : Bool) : Proc.Lines 0 (decideDirection p b c) := by
  unfold decideDirection
  split
  · refine Proc.lines_bind (k := 0) (n := 0) (Proc.lines_look _ _) fun q => ?_
    split
    · refine Proc.lines_bind (k := 0) (n := 0) (Proc.lines_bind (k := 0) (n := 0) (Proc.lines_look _ _) fun stk => ?_)
        fun _ => Proc.lines_pure _ _
      split
      · exact lines_updateSearch _
      · exact fun s => .refl 0 s
    · split
      · exact Proc.lines_pure _ _
      · exact Proc.lines_bind (k := 0) (n := 0) (lines_updateSearch _) fun _ => Proc.lines_pure _ _
  · exact Proc.lines_pure _ _

/-- A search triplet is one section of at most 18 events. -/
theorem oneSection_searchTriplet (p : Nat) (s : State) : OneSection 18 s (Proc.run (searchTriplet p) s).2 := by
  refine oneSection_critical (n := 6 + (6 + 4)) (Proc.lines_bind (lines_readSlot _) fun b =>
    Proc.lines_bind (lines_readSlot _) fun c => ?_) s
  split
  · exact Proc.lines_pure _ _
  · exact Proc.lines_mono (Proc.lines_bind (lines_decideDirection _ _ _) fun d =>
      Proc.lines_bind (k := 4) (n := 0) (lines_writeSlot _ _) fun _ => Proc.lines_pure _ _) (by omega)

end Sys2Proof.Machine
end

