-- ==== Sys2Proof/Laws/Transactions.lean ====
section
/-! SUPPORT. What the addressing sequence and the parts of a memory transaction do when the environment's scripted answers
let them succeed. -/

namespace Sys2Proof.Machine

/-! ### Addressing -/

/-- The reset, the command byte and, where the mode sends it, the ROM. -/
theorem run_resetCommand_ok (p q : Prof) (x : Byte) {k1 k2 : Nat} {s : State} {as rest : List Answer}
    (hp : s.polls = none) (hk : PollsWithin p k1 k2) (h : s.env = as ++ rest)
    (hf : fits (resetPresent k1 k2 ++ bytesWritten 1) as = true) :
    Proc.run (busReset p >>= fun _ => writeByte q x) s =
      (.ok (), s.ran (resetTrace p (k1 + k2) ++ byteWriteTrace q x) rest) := by
  obtain ⟨a1, a2, rfl, hf1, hf2⟩ := (fits_append ..).1 hf
  rw [List.append_assoc] at h
  rw [Proc.run_bind_ok (run_busReset_ok p hp hk h hf1), run_writeByte_ok q x rfl hf2, ran_ran]

theorem run_sendRom_ok (p : Prof) {s : State} {as rest : List Answer} (hw : s.romReadable = true)
    (h : s.env = as ++ rest) (hf : fits (bytesWritten 8) as = true) :
    Proc.run (sendRom p) s = (.ok (), s.ran (bytesWriteTrace p s.rom.toList) rest) := by
  have hr : Proc.run readRom s = (.ok s.rom, s) := by rw [run_readRom, if_pos hw]
  rw [sendRom, Proc.run_bind_ok hr]
  exact run_writeBytes_ok p _ _ h hf

theorem run_resetCommandRom_ok (q : Prof) (x : Byte) {k1 k2 : Nat} {s : State} {as rest : List Answer}
    (hp : s.polls = none) (hw : s.romReadable = true) (hk : PollsWithin .std k1 k2) (h : s.env = as ++ rest)
    (hf : fits (resetPresent k1 k2 ++ bytesWritten 9) as = true) :
    Proc.run (busReset .std >>= fun _ => writeByte .std x >>= fun _ => sendRom q) s =
      (.ok (), s.ran (resetTrace .std (k1 + k2) ++ byteWriteTrace .std x ++ bytesWriteTrace q s.rom.toList) rest) := by
  rw [show (9 : Nat) = 1 + 8 from rfl, bytesWritten_add, ← List.append_assoc, fits_append] at hf
  obtain ⟨a1, a2, rfl, hf1, hf2⟩ := hf
  rw [List.append_assoc] at h
  have hrc := run_resetCommand_ok .std .std x hp hk h hf1
  rw [← bind_assoc, Proc.run_bind_ok hrc, run_sendRom_ok q (by exact hw) (by rfl) hf2, ran_ran]
  rfl

/-- The addressing sequence in each of the six modes. -/
theorem run_addressDevices_ok {k1 k2 : Nat} {s : State} {as rest : List Answer} (hp : s.polls = none)
    (ha : s.Addressable k1 k2) (h : s.env = as ++ rest) (hf : fits (addressed s.mode k1 k2) as = true) :
    Proc.run addressDevices s =
      (.ok (modeFunction s.mode), s.ran (addressTrace s.mode s.rom (k1 + k2)) rest) := by
  obtain ⟨⟨hmw, hm⟩, hrom, hk⟩ := ha
  have hr : Proc.run readMode s = (.ok s.mode, s) := by rw [run_readMode, if_pos hmw]
  rw [addressDevices, Proc.run_bind_ok hr]
  rw [addressed] at hf
  obtain h0 | h1 | h2 | h3 | h4 | h5 :
      s.mode.toNat = 0 ∨ s.mode.toNat = 1 ∨ s.mode.toNat = 2 ∨ s.mode.toNat = 3 ∨ s.mode.toNat = 4 ∨
        s.mode.toNat = 5 := by omega
  · simp only [h0, modeReset, modeCommandBytes, modeFunction, addressTrace, modeCommandTrace] at *
    have hrc := run_resetCommand_ok .std .std cfg.cmdSkipRom hp hk h hf
    rw [addressSkip, sendSkipRom, ← bind_assoc, Proc.run_bind_ok hrc]
    rfl
  · simp only [h1, modeReset, modeCommandBytes, modeFunction, addressTrace, modeCommandTrace] at *
    have hrc := run_resetCommand_ok .std .std cfg.cmdOdSkipRom hp hk h hf
    rw [addressOdSkip, sendOdSkipRom, ← bind_assoc, Proc.run_bind_ok hrc]
    rfl
  · have hw := hrom (.inl h2)
    simp only [h2, modeReset, modeCommandBytes, modeFunction, addressTrace, modeCommandTrace] at *
    have hrc := run_resetCommandRom_ok .std cfg.cmdMatchRom hp hw hk h hf
    rw [addressMatch, sendMatchRom]
    simp only [← bind_assoc] at hrc ⊢
    rw [Proc.run_bind_ok hrc, List.append_assoc]
    rfl
  · have hw := hrom (.inr h3)
    simp only [h3, modeReset, modeCommandBytes, modeFunction, addressTrace, modeCommandTrace] at *
    have hrc := run_resetCommandRom_ok .od cfg.cmdOdMatchRom hp hw hk h hf
    rw [addressOdMatch, sendOdMatchRom]
    simp only [← bind_assoc] at hrc ⊢
    rw [Proc.run_bind_ok hrc, List.append_assoc]
    rfl
  · simp only [h4, modeReset, modeCommandBytes, modeFunction, addressTrace, modeCommandTrace] at *
    have hrc := run_resetCommand_ok .std .std cfg.cmdResume hp hk h hf
    rw [addressResume, sendResume, ← bind_assoc, Proc.run_bind_ok hrc]
    rfl
  · simp only [h5, modeReset, modeCommandBytes, modeFunction, addressTrace, modeCommandTrace] at *
    have hrc := run_resetCommand_ok .od .od cfg.cmdResume hp hk h hf
    rw [addressOdResume, sendResume, ← bind_assoc, Proc.run_bind_ok hrc]
    rfl

/-! ### The bytes of a scratchpad transaction -/

/-- Bytes sent and counted in the running CRC. -/
theorem run_sendCounted_ok (p : Prof) (x : Byte) (xs : List Byte) (t : ScratchTx) {s : State} {as rest : List Answer}
    (ht : s.tx = some t) (h : s.env = as ++ rest) (hf : fits (bytesWritten (xs.length + 1)) as = true) :
    Proc.run (sendCounted p (x :: xs)) s =
      (.ok (), { s.ran (bytesWriteTrace p (x :: xs)) rest with
        tx := some { t with crc := crcFrom t.crc (x :: xs) } }) := by
  induction xs generalizing x s as t with
  | nil =>
    rw [sendCounted, Proc.run_bind_ok (run_writeByte_ok p x h hf)]
    simp [sendCounted, crcByte, updateTx, State.ran, State.txValue, ht, bytesWriteTrace, crcFrom]
  | cons y xs ih =>
    rw [List.length_cons, Nat.add_comm, bytesWritten_add, fits_append] at hf
    obtain ⟨a1, a2, rfl, hf1, hf2⟩ := hf
    rw [List.append_assoc] at h
    rw [sendCounted, Proc.run_bind_ok (run_writeByte_ok p x h hf1), crcByte, updateTx,
      Proc.run_bind_ok (Proc.run_update _ _), ih y { t with crc := crcUpd t.crc x } (as := a2)]
    · simp [State.ran, bytesWriteTrace, crcFrom]
    · simp [State.ran, State.txValue, ht]
    · rfl
    · exact hf2

theorem run_readByte_keep (p : Prof) {x : Byte} {s : State} {as rest : List Answer} (hacc : s.acc = none)
    (h : s.env = as ++ rest) (hf : fits (bytesRead [x]) as = true) :
    Proc.run (readByte p) s = (.ok x, s.ran (byteReadTrace p) rest) := by
  rw [run_readByte_ok p h hf]
  simp [State.ran, hacc]

/-- A byte of the readback, counted in the running CRC. -/
theorem run_readCounted_ok (p : Prof) {x : Byte} (t : ScratchTx) {s : State} {as rest : List Answer} (hacc : s.acc = none)
    (ht : s.tx = some t) (h : s.env = as ++ rest) (hf : fits (bytesRead [x]) as = true) :
    Proc.run (readCounted p) s =
      (.ok x, { s.ran (byteReadTrace p) rest with
        tx := some { t with crc := crcUpd t.crc x, readback := t.readback ++ [x] } }) := by
  rw [readCounted, Proc.run_bind_ok (run_readByte_keep p hacc h hf)]
  simp [crcByte, updateTx, Proc.run_bind, Proc.run_map, State.ran, State.txValue, ht]

/-- A status byte of the readback, not counted. -/
theorem run_readStatus_ok (p : Prof) {x : Byte} (t : ScratchTx) {s : State} {as rest : List Answer} (hacc : s.acc = none)
    (ht : s.tx = some t) (h : s.env = as ++ rest) (hf : fits (bytesRead [x]) as = true) :
    Proc.run (readStatus p) s =
      (.ok x, { s.ran (byteReadTrace p) rest with tx := some { t with readback := t.readback ++ [x] } }) := by
  rw [readStatus, Proc.run_bind_ok (run_readByte_keep p hacc h hf)]
  simp [updateTx, Proc.run_map, State.ran, State.txValue, ht]

/-- Data bytes read and counted; at least one. -/
theorem run_readDataCounted_ok (p : Prof) (x : Byte) (xs : List Byte) (t : ScratchTx) {s : State} {as rest : List Answer}
    (hacc : s.acc = none) (ht : s.tx = some t) (h : s.env = as ++ rest) (hf : fits (bytesRead (x :: xs)) as = true) :
    Proc.run (readDataCounted p (xs.length + 1)) s =
      (.ok (), { s.ran (bytesReadTrace p (xs.length + 1)) rest with
        tx := some { t with crc := crcFrom t.crc (x :: xs), data := t.data ++ x :: xs } }) := by
  have hone : ∀ {a1 : List Answer} {x : Byte}, fits (List.flatMap slotRead (lsbFirst x)) a1 = true →
      fits (bytesRead [x]) a1 = true := by
    intro a1 x h
    rw [bytesRead, List.flatMap_cons, List.flatMap_nil, List.append_nil]
    exact h
  induction xs generalizing x s as t with
  | nil =>
    rw [List.length_nil, readDataCounted, Proc.run_bind_ok (run_readByte_keep p hacc h hf)]
    simp [readDataCounted, crcByte, updateTx, Proc.run_bind, State.ran, State.txValue, ht, bytesReadTrace,
      crcFrom]
  | cons y xs ih =>
    rw [bytesRead, List.flatMap_cons, fits_append] at hf
    obtain ⟨a1, a2, rfl, hf1, hf2⟩ := hf
    rw [List.append_assoc] at h
    rw [List.length_cons, readDataCounted, Proc.run_bind_ok (run_readByte_keep p hacc h (hone hf1)), crcByte, updateTx,
      Proc.run_bind_ok (Proc.run_update _ _), updateTx, Proc.run_bind_ok (Proc.run_update _ _),
      ih y { t with crc := crcUpd t.crc x, data := t.data ++ [x] } (as := a2)]
    · rw [bytesReadTrace, bytesReadTrace, List.range_succ_eq_map (n := xs.length + 1), List.flatMap_cons,
        List.flatMap_map]
      simp [State.ran, crcFrom]
    · exact hacc
    · simp [State.ran, State.txValue, ht]
    · rfl
    · exact hf2

end Sys2Proof.Machine
end

