-- ==== Sys2Proof/Tests/Slice0.lean ====
section
/-! SUPPORT. The model's own tests. Expected values are copied out of spec/ by hand: the encodings from 30_encoding.md, the
traces and results from 95_test_vectors.md part 2. At the end, for each statement with hypotheses, a state and operands
that meet them. -/

namespace Sys2Proof.Tests

open Sys2Proof Sys2Proof.Machine

/-! ## Ill-formed terms are refused (30_encoding.md R103, R106, R111) -/

theorem test_wf_write_length : wfWriteLength (List.replicate 65536 0) = false := by
  rw [wfWriteLength, List.length_replicate]
  rfl

theorem test_wf_write : (Instr.write 0 (List.replicate 65536 0)).wf = false := test_wf_write_length

theorem test_wf_triplet_low : (Instr.triplet 0).wf = false := by decide

theorem test_wf_triplet_high : (Instr.triplet 65).wf = false := by decide

theorem test_wf_pageWrite : (Instr.pageWrite 4 Bytes8.zero).wf = false := by decide

theorem test_wf_searchEngine : (Instr.searchEngine 65 0xF0).wf = false := by decide

/-! ## Encodings, every constructor (30_encoding.md R102, R103, R105, R106, R108) -/

theorem test_decode_init : decode .host [0x01] = .ok .init := by decide
theorem test_decode_deinit : decode .host [0x02] = .ok .deinit := by decide
theorem test_decode_setMode : decode .host [0x03, 0x02] = .ok (.setMode 2) := by decide
theorem test_decode_getMode : decode .host [0x04] = .ok .getMode := by decide
theorem test_decode_setRom :
    decode .host [0x05, 0x2D, 0xA2, 0x1B, 0x4C, 0x00, 0x00, 0x00, 0x1B]
      = .ok (.setRom ⟨0x2D, 0xA2, 0x1B, 0x4C, 0x00, 0x00, 0x00, 0x1B⟩) := by decide
theorem test_decode_getRom : decode .host [0x06] = .ok .getRom := by decide
theorem test_decode_romMatch : decode .host [0x07] = .ok .romMatch := by decide
theorem test_decode_read : decode .host [0x08, 0x34, 0x12, 0x08, 0x01] = .ok (.read 0x1234 0x0108) := by decide
theorem test_decode_write :
    decode .host [0x09, 0x06, 0x00, 0x03, 0x00, 0xA1, 0xB2, 0xC3] = .ok (.write 6 [0xA1, 0xB2, 0xC3]) := by decide
theorem test_decode_readConfig : decode .host [0x0A] = .ok .readConfig := by decide
theorem test_decode_writeConfig :
    decode .host [0x0B, 0, 1, 2, 3, 4, 5, 6, 7] = .ok (.writeConfig ⟨0, 1, 2, 3, 4, 5, 6, 7⟩) := by decide
theorem test_decode_readScratchpad : decode .host [0x0C] = .ok .readScratchpad := by decide
theorem test_decode_writeScratchpad :
    decode .host [0x0D, 0x78, 0x00, 1, 2, 3, 4, 5, 6, 7, 8]
      = .ok (.writeScratchpad 0x0078 ⟨1, 2, 3, 4, 5, 6, 7, 8⟩) := by decide
theorem test_decode_copyScratchpad : decode .host [0x0E, 0x78, 0x00] = .ok (.copyScratchpad 0x0078) := by decide
theorem test_decode_readMemory : decode .host [0x0F, 0x00, 0x00, 0x08, 0x00] = .ok (.readMemory 0 8) := by decide
theorem test_decode_searchRom : decode .host [0x10, 0x40] = .ok (.searchRom 64) := by decide
theorem test_decode_resetStd : decode .micro [0x20] = .ok .resetStd := by decide
theorem test_decode_resetOd : decode .micro [0x21] = .ok .resetOd := by decide
theorem test_decode_wbitStd : decode .micro [0x22, 0x01] = .ok (.wbitStd true) := by decide
theorem test_decode_wbitOd : decode .micro [0x23, 0x00] = .ok (.wbitOd false) := by decide
theorem test_decode_rbitStd : decode .micro [0x24] = .ok .rbitStd := by decide
theorem test_decode_rbitOd : decode .micro [0x25] = .ok .rbitOd := by decide
theorem test_decode_wbyteStd : decode .micro [0x26, 0xCC] = .ok (.wbyteStd 0xCC) := by decide
theorem test_decode_wbyteOd : decode .micro [0x27, 0xA5] = .ok (.wbyteOd 0xA5) := by decide
theorem test_decode_rbyteStd : decode .micro [0x28] = .ok .rbyteStd := by decide
theorem test_decode_rbyteOd : decode .micro [0x29] = .ok .rbyteOd := by decide
theorem test_decode_triplet : decode .micro [0x2A, 0x3F] = .ok (.triplet 64) := by decide
theorem test_decode_address : decode .micro [0x2B] = .ok .address := by decide
theorem test_decode_pageWrite :
    decode .micro [0x2C, 0x80, 0x00, 1, 2, 3, 4, 5, 6, 7, 8]
      = .ok (.pageWrite 0x0080 ⟨1, 2, 3, 4, 5, 6, 7, 8⟩) := by decide
theorem test_decode_memRead : decode .micro [0x2D, 0x80, 0x00, 0x08, 0x00] = .ok (.memRead 0x0080 8) := by decide
theorem test_decode_searchEngine : decode .micro [0x2E, 0x40, 0xF0] = .ok (.searchEngine 64 0xF0) := by decide
theorem test_decode_cmdSkipRom : decode (.wireRom .std) [0xCC] = .ok .cmdSkipRom := by decide
theorem test_decode_cmdOdSkipRom : decode (.wireRom .std) [0x3C] = .ok .cmdOdSkipRom := by decide
theorem test_decode_cmdMatchRom : decode (.wireRom .std) [0x55] = .ok .cmdMatchRom := by decide
theorem test_decode_cmdOdMatchRom : decode (.wireRom .std) [0x69] = .ok .cmdOdMatchRom := by decide
theorem test_decode_cmdResume : decode (.wireRom .od) [0xA5] = .ok (.cmdResume .od) := by decide
theorem test_decode_cmdSearchRom : decode (.wireRom .std) [0xF0] = .ok .cmdSearchRom := by decide
theorem test_decode_cmdWriteScratchpad :
    decode (.wireFunction .od) [0x0F] = .ok (.cmdWriteScratchpad .od) := by decide
theorem test_decode_cmdReadScratchpad :
    decode (.wireFunction .std) [0xAA] = .ok (.cmdReadScratchpad .std) := by decide
theorem test_decode_cmdCopyScratchpad :
    decode (.wireFunction .std) [0x55] = .ok (.cmdCopyScratchpad .std) := by decide
theorem test_decode_cmdReadMemory : decode (.wireFunction .od) [0xF0] = .ok (.cmdReadMemory .od) := by decide

/-- The host cannot issue a micro-operation (30_encoding.md R111). -/
theorem test_decode_micro_from_host : decode .host [0x20] = .error (.unknownId 0x20) := by decide

/-- Id 0x11 is no operation (R111). -/
theorem test_decode_unknown : decode .host [0x11] = .error (.unknownId 0x11) := by decide

/-- A WRITE with fewer data bytes than `len` (R111). -/
theorem test_decode_write_short : decode .host [0x09, 0, 0, 2, 0, 0xA1] = .error (.truncated 0x09) := by decide

/-- A WRITE with more data bytes than `len` (R111). -/
theorem test_decode_write_long : decode .host [0x09, 0, 0, 1, 0, 0xA1, 0xB2] = .error (.trailing 0x09) := by decide

/-! ## One step of each family -/

/-- Answers with status 0 and the wanted samples; where a sample is not asked for, 0. -/
def answersFor (ws : List Wanted) : List Answer := ws.map fun w => ⟨0, w.getD false⟩

/-- ROM-B of 95_test_vectors.md. -/
def romB : Bytes8 := ⟨0x2D, 0xA2, 0x1B, 0x4C, 0x00, 0x00, 0x00, 0x1B⟩

/-- A core after INIT, SET_MODE and SET_ROM, with a script for the environment. -/
def ready (m : Byte) (env : List Answer) : State :=
  { State.reset with inited := true, mode := m, modeWritten := true, rom := romB, romWritten := true, env := env }

/-- A core just after reset, with a script for the environment. -/
def fresh (env : List Answer) : State := { State.reset with env := env }

/-- What a step emits from an empty trace, and what it answers. -/
def observed : Host.Outcome State Fault Refusal → Option (List PortEvent × List Reply)
  | .next t => some (t.trace, t.replies)
  | .fault _ => none
  | .refused _ => none

/-- How many events a step emits from an empty trace, and what it answers. -/
def counted (o : Host.Outcome State Fault Refusal) : Option (Nat × List Reply) :=
  (observed o).map fun x => (x.1.length, x.2)

/-- LINE after a step. -/
def lineAfter : Host.Outcome State Fault Refusal → Option (Option Bool)
  | .next t => some t.line
  | .fault _ => none
  | .refused _ => none

/-- The fault or refusal mark after a step. -/
def haltAfter : Host.Outcome State Fault Refusal → Option (Option Halt)
  | .next t => some t.halt
  | .fault _ => none
  | .refused _ => none

/-- The registers after a step. -/
def registersAfter : Host.Outcome State Fault Refusal → Option (Bool × Byte × Bool × Bytes8 × Bool)
  | .next t => some (t.inited, t.mode, t.modeWritten, t.rom, t.romWritten)
  | .fault _ => none
  | .refused _ => none

/-- V-B2. -/
theorem test_wbitStd : observed (exec (.wbitStd false) (fresh (answersFor [none, none])))
    = some ([.w false, .dus 65, .w true, .dus 2], [.micro (.ok .unit)]) := by decide +kernel

/-- V-B9: the line is left low. -/
theorem test_wbitStd_fails : lineAfter (exec (.wbitStd false) (fresh [⟨0, false⟩, ⟨1, false⟩])) = some (some false) := by
  decide +kernel

/-- V-B3. -/
theorem test_wbitOd : observed (exec (.wbitOd true) (fresh (answersFor [none, none])))
    = some ([.w false, .dus 1, .w true, .dus 10], [.micro (.ok .unit)]) := by decide +kernel

/-- V-B6. -/
theorem test_rbitStd : observed (exec .rbitStd (fresh (answersFor [none, none, some true])))
    = some ([.w false, .dus 2, .w true, .dus 10, .r, .dus 55], [.micro (.ok (.bit true))]) := by decide +kernel

/-- V-B10: no recovery delay. -/
theorem test_rbitStd_fails : observed (exec .rbitStd (fresh [⟨0, false⟩, ⟨0, false⟩, ⟨1, true⟩]))
    = some ([.w false, .dus 2, .w true, .dus 10, .r], [.micro (.err .transport)]) := by decide +kernel

/-- V-B7. -/
theorem test_rbitOd : observed (exec .rbitOd (fresh (answersFor [none, none, some true])))
    = some ([.w false, .dus 1, .w true, .dus 9, .r, .dus 1], [.micro (.ok (.bit true))]) := by decide +kernel

/-- V-Y1: slots 0, 0, 1, 1, 0, 0, 1, 1. -/
theorem test_wbyteStd : observed (exec (.wbyteStd 0xCC) (fresh (answersFor (List.replicate 16 none))))
    = some ([.irqOff, .w false, .dus 65, .w true, .dus 2, .w false, .dus 65, .w true, .dus 2,
      .w false, .dus 2, .w true, .dus 65, .w false, .dus 2, .w true, .dus 65,
      .w false, .dus 65, .w true, .dus 2, .w false, .dus 65, .w true, .dus 2,
      .w false, .dus 2, .w true, .dus 65, .w false, .dus 2, .w true, .dus 65, .irqOn], [.micro (.ok .unit)]) := by decide +kernel

/-- V-Y11: the first write of slot 3 fails. -/
theorem test_wbyteStd_fails :
    counted (exec (.wbyteStd 0xCC) (fresh (answersFor (List.replicate 6 none) ++ [⟨1, false⟩])))
      = some (15, [.micro (.err .transport)]) := by decide +kernel

/-- V-Y4: the first two slots are 1, 0. -/
theorem test_wbyteOd :
    (observed (exec (.wbyteOd 0xA5) (fresh (answersFor (List.replicate 16 none))))).map (fun x => x.1.take 9)
      = some [.irqOff, .w false, .dus 1, .w true, .dus 10, .w false, .dus 10, .w true, .dus 1] := by decide +kernel

/-- V-Y5: samples 0, 0, 0, 0, 1, 1, 1, 1. -/
theorem test_rbyteStd :
    counted (exec .rbyteStd (fresh (answersFor
      ([false, false, false, false, true, true, true, true].flatMap slotRead))))
      = some (50, [.micro (.ok (.byte 0xF0))]) := by decide +kernel

/-- V-Y10: samples 1, 0, 1, 0, 1, 0, 1, 0. -/
theorem test_rbyteOd :
    counted (exec .rbyteOd (fresh (answersFor
      ([true, false, true, false, true, false, true, false].flatMap slotRead))))
      = some (50, [.micro (.ok (.byte 0x55))]) := by decide +kernel

/-- V-R1. -/
theorem test_resetStd : observed (exec .resetStd (fresh (answersFor [none, none, some false, some true])))
    = some ([.irqOff, .w false, .dus 550, .w true, .dus 15, .r, .dus 1, .r, .dus 1, .irqOn], [.micro (.ok .unit)]) := by
  decide +kernel

/-- V-R10: the fifth read of phase 1 fails. -/
theorem test_resetStd_fails :
    counted (exec .resetStd (fresh (answersFor (none :: none :: List.replicate 4 (some true)) ++ [⟨1, false⟩])))
      = some (15, [.micro (.err .transport)]) := by decide +kernel

/-- V-R8: both phases at their last permitted poll. -/
theorem test_resetOd_last_polls :
    counted (exec .resetOd (fresh (answersFor ([none, none] ++ List.replicate 19 (some true) ++ [some false]
      ++ List.replicate 19 (some false) ++ [some true]))))
      = some (86, [.micro (.ok .unit)]) := by decide +kernel

/-- V-R7: stuck high. -/
theorem test_resetOd_no_presence :
    counted (exec .resetOd (fresh (answersFor ([none, none] ++ List.replicate 20 (some true)))))
      = some (46, [.micro (.err .noPresence)]) := by decide +kernel

/-- A successful shortest reset. -/
def presence : List Wanted := [none, none, some false, some true]

/-- V-A1. -/
theorem test_address_skip : counted (exec .address (ready 0 (answersFor (presence ++ bytesWritten 1))))
    = some (44, [.micro (.ok (.profile .std))]) := by decide +kernel

/-- V-A4: the command in STD, the ROM bytes in OD. -/
theorem test_address_odMatch :
    (observed (exec .address (ready 3 (answersFor (presence ++ bytesWritten 9))))).map
        (fun x => (x.1.length, (x.1.drop 44).take 5, x.2))
      = some (316, [.irqOff, .w false, .dus 1, .w true, .dus 10], [.micro (.ok (.profile .od))]) := by decide +kernel

/-- V-A9: MODE is not read. -/
theorem test_romMatch :
    counted (exec .romMatch { ready 0 (answersFor (presence ++ bytesWritten 9)) with modeWritten := false })
      = some (316, [hostReply 0 .ok .none]) := by decide +kernel

/-- V-A12, on a core on which it is a fault: the fault at the first read of ROM, after 44 events; no response. -/
theorem test_unwritten_rom :
    (fun o => (counted o, haltAfter o)) (exec (.read 0 1)
      { ready 2 (answersFor (presence ++ bytesWritten 1)) with romWritten := false, unwrittenFaults := true })
      = (some (44, []), some (some (.unwrittenRead .rom))) := by decide +kernel

/-- V-A8. -/
theorem test_mode_invalid : observed (exec (.copyScratchpad 0) (ready 6 [])) = some ([], [hostReply 6 .modeInvalid .none]) := by
  decide +kernel

/-- V-T5: a discrepancy below the top replays the previous pass. -/
theorem test_triplet_replay :
    counted (exec (.triplet 9) { fresh (answersFor (tripletAnswers false false)) with
      search := some { stk := [10], prev := ⟨0x2D, 0x01, 0, 0, 0, 0, 0, 0xE0⟩, cand := Bytes8.zero, found := [] } })
      = some (18, [.micro (.ok (.bit true))]) := by decide +kernel

/-- V-T8: two read slots and no write slot. -/
theorem test_triplet_none :
    counted (exec (.triplet 9) (fresh (answersFor (slotRead true ++ slotRead true)))) = some (14, [.micro .none]) := by
  decide +kernel

/-- V-S4: no device responds to the search. -/
theorem test_searchRom_none :
    counted (exec (.searchRom 64) (ready 0 (answersFor (presence ++ bytesWritten 1 ++ slotRead true ++ slotRead true))))
      = some (58, [hostReply 0 .ok (.search 0 [])]) := by decide +kernel

/-- V-S2. -/
theorem test_searchRom_capacity :
    (observed (exec (.searchRom 65) (ready 0 [])), observed (exec (.searchRom 0) (ready 0 [])))
      = (some ([], [hostReply 4 .argRange .none]), some ([], [hostReply 0 .ok (.search 0 [])])) := by decide +kernel

/-- The engine with capacity 0 (44_rom_search.md R249). -/
theorem test_searchEngine_zero : observed (exec (.searchEngine 0 0xF0) (fresh [])) = some ([], [.micro (.ok (.roms []))]) := by
  decide +kernel

/-- R271: the catalogue's check value. -/
theorem test_crc_check : crc16 [0x31, 0x32, 0x33, 0x34, 0x35, 0x36, 0x37, 0x38, 0x39] = 0xBB3D := by decide +kernel

/-- R275's example: the device answers the complement of 0xD0C0, low byte first. -/
theorem test_crc_residue :
    crcAccepts (crc16 [0x0F, 0, 0, 1, 2, 3, 4, 5, 6, 7, 8, 0x3F, 0x2F]) = true := by decide +kernel

/-- R285's example. -/
theorem test_copyScratchpad :
    (observed (exec (.copyScratchpad 0) (ready 0 (answersFor
        (presence ++ bytesWritten 1 ++ bytesWritten 4 ++ bytesRead [0xAA]))))).map
      (fun x => (x.1.length, x.1[180]?, x.2)) = some (231, some (.dms 10), [hostReply 0 .ok .none]) := by decide +kernel

/-- 45_memory_transactions.md R292: the first rejected range. -/
theorem test_read_range : observed (exec (.read 0x7F 2) (ready 0 [])) = some ([], [hostReply 4 .argRange .none]) := by
  decide +kernel

/-- R292: `READ 0x0080, 0` sends its address and reads no byte. -/
theorem test_read_nothing :
    counted (exec (.read 0x80 0) (ready 0 (answersFor (presence ++ bytesWritten 4))))
      = some (146, [hostReply 0 .ok (.data [])]) := by decide +kernel

/-- V-A7, mode 0. -/
theorem test_read :
    counted (exec (.read 0 1) (ready 0 (answersFor (presence ++ bytesWritten 4 ++ bytesRead [0x10]))))
      = some (196, [hostReply 0 .ok (.data [0x10])]) := by decide +kernel

/-- The chunk at 6 of a write of 3 bytes is 2 bytes (R295). -/
theorem test_chunk : chunkLen { a := 6, off := 0, rem := 3 } = 2 := by decide +kernel

/-- Program P2's page 0x00: bytes 6 and 7 replaced (R296). -/
theorem test_overlay :
    overlay [0x10, 0x11, 0x12, 0x13, 0x14, 0x15, 0x16, 0x17] 6 [0xA1, 0xB2]
      = [0x10, 0x11, 0x12, 0x13, 0x14, 0x15, 0xA1, 0xB2] := by decide +kernel

/-- INIT (46_handle_control.md R331). -/
theorem test_init :
    (fun o => (observed o, registersAfter o)) (exec .init (fresh [⟨0, false⟩]))
      = (some ([.busInit], [hostReply 0 .ok .none]), some (true, 0, false, Bytes8.zero, false)) := by decide +kernel

/-- INIT without a capability. -/
theorem test_init_missing :
    observed (exec .init { fresh [] with caps := { Caps.all with debugPrint := false } })
      = some ([], [hostReply 3 .missingCap .none]) := by decide +kernel

/-- DEINIT (R332). -/
theorem test_deinit :
    (fun o => (observed o, registersAfter o)) (exec .deinit (ready 2 [⟨0, false⟩]))
      = (some ([.busDeinit], [hostReply 0 .ok .none]), some (false, 2, true, romB, true)) := by decide +kernel

/-- SET_MODE 6 succeeds (R333). -/
theorem test_setMode : registersAfter (exec (.setMode 6) (ready 0 [])) = some (true, 6, true, romB, true) := by decide +kernel

/-- GET_MODE after SET_MODE 5 (R334). -/
theorem test_getMode : observed (exec .getMode (ready 5 [])) = some ([], [hostReply 0 .ok (.mode 5)]) := by decide +kernel

/-- SET_ROM (R335). -/
theorem test_setRom :
    registersAfter (exec (.setRom ⟨0x2D, 1, 0, 0, 0, 0, 0, 0xE0⟩) (ready 0 []))
      = some (true, 0, true, ⟨0x2D, 1, 0, 0, 0, 0, 0, 0xE0⟩, true) := by decide +kernel

/-- GET_ROM before any SET_ROM (R336, R376), on a core on which it is a fault. -/
theorem test_getRom_unwritten :
    haltAfter (exec .getRom { ready 0 [] with romWritten := false, unwrittenFaults := true })
      = some (some (.unwrittenRead .rom)) := by decide +kernel

/-- GET_MODE before any SET_MODE, as after reset: the value the register holds (log 5). -/
theorem test_getMode_unwritten :
    observed (exec .getMode { fresh [] with inited := true }) = some ([], [hostReply 0 .ok (.mode 0)]) := by decide +kernel

/-- A null handle comes before everything else (60_exceptions.md R362). -/
theorem test_null_handle :
    observed (exec (.read 0x7F 2) { fresh [] with handle := .null }) = some ([], [hostReply 2 .nullHandle .none]) := by
  decide +kernel

/-- The requested slot lengths, 40_bit_transport.md R150. -/
theorem test_slot_lengths :
    (profStd.tW1L + profStd.tW1H, profStd.tW0L + profStd.tW0H, profStd.tRL + profStd.tRS + profStd.tRR,
      profOd.tW1L + profOd.tW1H, profOd.tW0L + profOd.tW0H, profOd.tRL + profOd.tRS + profOd.tRR)
      = (67, 67, 67, 11, 11, 11) := by decide +kernel

/-! ## Witnesses: the hypotheses of each statement can be met -/

theorem fits_answersFor (ws : List Wanted) : fits ws (answersFor ws) = true := by
  induction ws with
  | nil => rfl
  | cons w ws ih =>
    refine (fits_cons ..).2 ⟨_, _, rfl, rfl, ?_, ih⟩
    cases w <;> simp

/-- A script and what is left of it after the sequence it was written for. -/
def leftOver : List Answer := [⟨1, true⟩]

/-- A ready core with a script for one sequence. -/
def scripted (m : Byte) (ws : List Wanted) : State := ready m (answersFor ws ++ leftOver)

theorem scripted_env (m : Byte) (ws : List Wanted) : (scripted m ws).env = answersFor ws ++ leftOver := rfl

theorem scripted_quiet (m : Byte) (ws : List Wanted) : (scripted m ws).Quiet := ⟨rfl, rfl, rfl, rfl, rfl, rfl⟩

theorem scripted_ready (m : Byte) (ws : List Wanted) : (scripted m ws).Ready := ⟨rfl, rfl⟩

theorem witness_DecodeOfEncodeIsTheInstruction :
    (Instr.triplet 1).wf = true ∧ (Instr.triplet 64).wf = true ∧ (Instr.pageWrite 0xFFF8 romB).wf = true ∧
      (Instr.searchEngine 64 0xF0).wf = true ∧ (Instr.write 0 [1]).wf = true := by decide

theorem witness_EncodeOfDecodeIsTheBytes :
    decode .host [0x09, 0, 0, 1, 0, 0xA1] = .ok (.write 0 [0xA1]) ∧ decode .micro [0x2A, 0] = .ok (.triplet 1) := by decide

/-- A core with one request waiting. -/
def waiting (level : Level) (bytes : List Byte) : State :=
  { ready 0 [] with inbox := [{ handle := .core, level := level, bytes := bytes }] }

theorem witness_StepRunsTheDecodedRequest :
    (waiting .host [0x03, 0x05]).halt = none ∧
      (waiting .host [0x03, 0x05]).inbox = [{ handle := .core, level := .host, bytes := [0x03, 0x05] }] ∧
      decode .host [0x03, 0x05] = .ok (.setMode 5) := by decide

/-- For each clause: bytes that decode to nothing at all cannot be an encoding. -/
theorem witness_IllegalHostRequestIsRefused :
    (waiting .host [0x11]).halt = none ∧
      (∀ i : Instr, i.level = .host → i.wf = true → encode i ≠ ([] : List Byte)) ∧
      ((0x00 : Byte).toNat = 0) ∧ 0x11 ≤ (0x11 : Byte).toNat ∧ 0x11 ≤ (0x2E : Byte).toNat ∧
      ([0xA1] : List Byte).length ≠ (2 : Byte).toNat + 256 * (0 : Byte).toNat := by
  refine ⟨rfl, ?_, by decide, by decide, by decide, by decide⟩
  intro i _ _ h
  simp [encode] at h

theorem witness_StepWithoutARunnableRequest :
    ({ waiting .host [0x01] with halt := some (.unwrittenRead .rom) } : State).halt = some (.unwrittenRead .rom) ∧
      ({ waiting .host [0x01] with halt := some .searchStackFull } : State).halt = some .searchStackFull ∧
      (ready 0 []).halt = none ∧ (ready 0 []).inbox = [] := by decide

theorem witness_StepKeepsQuiet :
    (waiting .host [0x03, 0x05]).Quiet ∧ ∃ t, step (waiting .host [0x03, 0x05]) = .next t := ⟨by decide, _, rfl⟩

theorem witness_OnlyControlOperationsWriteRegisters :
    (∃ t, exec .romMatch (ready 0 []) = .next t) ∧
      (∃ t, exec .deinit { ready 0 [] with inited := false } = .next t ∧
        t.replies = ({ ready 0 [] with inited := false } : State).replies ++ [hostReply 3 .notInit .none]) :=
  ⟨⟨_, rfl⟩, _, rfl, rfl⟩

theorem witness_HostOperationsEmitBoundedEvents :
    Instr.level (.searchRom 64) = .host ∧ ∃ t, exec (.searchRom 64) (ready 0 []) = .next t := ⟨rfl, _, rfl⟩

theorem witness_HostOperationsBracketTheirSections :
    Instr.level .romMatch = .host ∧ ∃ t, exec .romMatch (ready 0 []) = .next t := ⟨rfl, _, rfl⟩

theorem witness_GetReturnsTheLastValueSet :
    (ready 0 []).Ready ∧
      (∃ t u, exec (.setMode 6) (ready 0 []) = .next t ∧ execAll [.setRom romB, .getRom] t = some u ∧ u.inited = true) ∧
      (∃ t u, exec (.setRom romB) (ready 0 []) = .next t ∧ execAll [.setMode 6, .getMode] t = some u ∧ u.inited = true) :=
  ⟨by decide, ⟨_, _, rfl, rfl, rfl⟩, _, _, rfl, rfl, rfl⟩

theorem witness_NullHandleThenUninitialized :
    Instr.level .init = .host ∧ ({ ready 0 [] with handle := .null } : State).handle = .null ∧
      Instr.level .deinit = .host ∧ Instr.deinit ≠ .init ∧ State.reset.handle = .core ∧ State.reset.inited = false := by decide

theorem witness_BadArgumentsAreRejectedFirst :
    (ready 0 []).Ready ∧ 128 < (0x7F : Half).toNat + (2 : Half).toNat ∧ 128 < (0xFFFF : Half).toNat + (0xFFFF : Half).toNat ∧
      128 < (0x80 : Half).toNat + ([0xA1] : List Byte).length ∧
      (0x0007 : Half).toNat % 8 ≠ 0 ∧ 0x80 ≤ (0x0080 : Half).toNat ∧ 0x80 ≤ (0xFFF8 : Half).toNat := by decide

theorem witness_InvalidModeIsRejectedBeforeTheBus :
    (ready 6 []).Ready ∧ (ready 6 []).modeReadable = true ∧ 5 < (ready 6 []).mode.toNat ∧ 5 < (ready 255 []).mode.toNat ∧
      (0x80 : Half).toNat + (0 : Half).toNat ≤ 128 ∧ (0 : Half).toNat + (128 : Half).toNat ≤ 128 ∧
      (0x7F : Half).toNat + ([1] : List Byte).length ≤ 128 ∧ (0x78 : Half).toNat % 8 = 0 ∧ (0x78 : Half).toNat < 0x80 := by
  decide

/-- A core on which a read of an unwritten register is a fault (60_exceptions.md R376), with neither register written. -/
def unwritten : State := { ready 0 [] with modeWritten := false, romWritten := false, unwrittenFaults := true }

theorem witness_UnwrittenModeIsAFault :
    unwritten.Ready ∧ unwritten.unwrittenFaults = true ∧ unwritten.modeWritten = false ∧
      (0x80 : Half).toNat + (0 : Half).toNat ≤ 128 ∧ (0x7F : Half).toNat + ([1] : List Byte).length ≤ 128 ∧
      (0x78 : Half).toNat % 8 = 0 ∧ (0x78 : Half).toNat < 0x80 := by decide

theorem witness_UnwrittenRomIsAFaultAfterTheCommand (m : Byte) (_ : m = 2 ∨ m = 3) :
    ∃ (s : State) (as rest : List Answer), s.Quiet ∧ s.unwrittenFaults = true ∧ s.romWritten = false ∧
      PollsWithin .std 200 240 ∧ s.env = as ++ rest ∧
      fits (resetPresent 200 240 ++ bytesWritten 1) as = true ∧ s.modeWritten = true ∧ s.mode = m ∧ s.Ready :=
  ⟨{ scripted m (resetPresent 200 240 ++ bytesWritten 1) with romWritten := false, unwrittenFaults := true }, _, leftOver,
    ⟨rfl, rfl, rfl, rfl, rfl, rfl⟩, rfl, rfl, by decide, rfl, fits_answersFor _, rfl, rfl, rfl, rfl⟩

theorem witness_UnwrittenRegistersReadTheValueTheyHold :
    State.reset.unwrittenFaults = false ∧ State.reset.modeWritten = false ∧ State.reset.romWritten = false := by decide

theorem witness_InitChecksThenInitializesTheBus :
    ({ fresh [] with handle := .null } : State).handle = .null ∧ (fresh []).handle = .core ∧
      ({ fresh [] with caps := { Caps.all with debugPrint := false } } : State).caps
        ≠ ⟨true, true, true, true, true, true, true, true, true⟩ ∧
      (fresh []).caps = ⟨true, true, true, true, true, true, true, true, true⟩ ∧
      ((fresh [⟨255, false⟩]).emit .busInit).answer.status ≠ 0 ∧
      ((fresh [⟨0, false⟩]).emit .busInit).answer.status = 0 := by decide

theorem witness_DeinitClearsInitedOnSuccess :
    ({ fresh [] with handle := .null } : State).handle = .null ∧ (fresh []).handle = .core ∧ (fresh []).inited = false ∧
      (ready 0 [⟨255, false⟩]).Ready ∧ ((ready 0 [⟨255, false⟩]).emit .busDeinit).answer.status ≠ 0 ∧
      ((ready 0 [⟨0, false⟩]).emit .busDeinit).answer.status = 0 := by decide

theorem witness_SetStoresTheOperandAndGetReadsTheRegister :
    (ready 0 []).Ready ∧ (ready 0 []).modeWritten = true ∧ (ready 0 []).romWritten = true ∧
      ({ fresh [] with inited := true } : State).Ready ∧ (fresh []).unwrittenFaults = false ∧
      unwritten.Ready ∧ unwritten.modeWritten = false ∧ unwritten.romWritten = false ∧ unwritten.unwrittenFaults = true ∧
      (fresh []).handle = .core ∧ (fresh []).inited = false ∧ ({ fresh [] with handle := .null } : State).handle = .null := by
  decide

theorem witness_WriteBitEmitsItsSlot :
    (fresh [⟨1, false⟩]).env = [⟨1, false⟩] ∧ (⟨1, false⟩ : Answer).status ≠ 0 ∧
      (fresh [⟨0, false⟩, ⟨255, false⟩]).env = [⟨0, false⟩, ⟨255, false⟩] ∧ (⟨255, false⟩ : Answer).status ≠ 0 ∧
      (fresh [⟨0, false⟩, ⟨0, false⟩]).env = [⟨0, false⟩, ⟨0, false⟩] ∧ (⟨0, false⟩ : Answer).status = 0 := by decide

theorem witness_ReadBitReturnsTheSample :
    (fresh [⟨1, false⟩]).env = [⟨1, false⟩] ∧ (⟨1, false⟩ : Answer).status ≠ 0 ∧
      (fresh [⟨0, false⟩, ⟨1, false⟩]).env = [⟨0, false⟩, ⟨1, false⟩] ∧
      (fresh [⟨0, false⟩, ⟨0, false⟩, ⟨1, true⟩]).env = [⟨0, false⟩, ⟨0, false⟩, ⟨1, true⟩] ∧
      (fresh [⟨0, false⟩, ⟨0, false⟩, ⟨0, true⟩]).env = [⟨0, false⟩, ⟨0, false⟩, ⟨0, true⟩] ∧
      (⟨0, true⟩ : Answer).status = 0 := by decide

theorem witness_BitPrimitivesLeaveInterruptsAlone : ∃ b, Instr.wbitStd true = .wbitStd b ∨ Instr.wbitStd true = .wbitOd b :=
  ⟨true, .inl rfl⟩

theorem witness_WriteByteSendsLsbFirst :
    (scripted 0 (bytesWritten 1)).env = answersFor (bytesWritten 1) ++ leftOver ∧
      fits (bytesWritten 1) (answersFor (bytesWritten 1)) = true := ⟨rfl, fits_answersFor _⟩

/-- The first slot and the last, failing at the first write and at the second. -/
theorem witness_ByteOperationsStopAtTheFirstFailure (n : Nat) (_ : n = 0 ∨ n = 7) :
    n < 8 ∧ fits (slotsWritten n) (answersFor (slotsWritten n)) = true ∧ (⟨1, false⟩ : Answer).status ≠ 0 ∧
      (ready 0 (answersFor (slotsWritten n) ++ ⟨1, false⟩ :: leftOver)).env
        = answersFor (slotsWritten n) ++ ⟨1, false⟩ :: leftOver ∧
      (⟨0, false⟩ : Answer).status = 0 ∧
      (ready 0 (answersFor (slotsWritten n) ++ ⟨0, false⟩ :: ⟨1, false⟩ :: leftOver)).env
        = answersFor (slotsWritten n) ++ ⟨0, false⟩ :: ⟨1, false⟩ :: leftOver :=
  ⟨by omega, fits_answersFor _, by decide, rfl, rfl, rfl⟩

/-- Of a read: the first slot and the last, failing at the first write, at the second and at the read. -/
theorem witness_ByteOperationsStopAtTheFirstFailure_read (vs : List Bool)
    (h : vs = [] ∨ vs = [true, false, true, false, true, false, true]) :
    vs.length < 8 ∧ fits (vs.flatMap slotRead) (answersFor (vs.flatMap slotRead)) = true ∧ (⟨255, true⟩ : Answer).status ≠ 0 ∧
      ∀ good : List Answer, good = [] ∨ good = [⟨0, false⟩] ∨ good = [⟨0, false⟩, ⟨0, true⟩] →
        ∃ s : State, s.env = answersFor (vs.flatMap slotRead) ++ (good ++ ⟨255, true⟩ :: leftOver) :=
  ⟨by rcases h with rfl | rfl <;> decide, fits_answersFor _, by decide, fun _ _ => ⟨ready 0 _, rfl⟩⟩

theorem witness_ReadByteAssemblesLsbFirst :
    (scripted 0 (bytesRead [0xF0])).acc = none ∧
      (scripted 0 (bytesRead [0xF0])).env = answersFor (bytesRead [0xF0]) ++ leftOver ∧
      fits (bytesRead [0xF0]) (answersFor (bytesRead [0xF0])) = true := ⟨rfl, rfl, fits_answersFor _⟩

theorem witness_EveryByteIsOneCriticalSection : ∃ p, Instr.level .cmdSkipRom = .wireRom p ∨ Instr.level .cmdSkipRom = .wireFunction p :=
  ⟨.std, .inl rfl⟩

theorem witness_CommandBytesAreSentAsBytes :
    (scripted 0 (bytesWritten 1)).env = answersFor (bytesWritten 1) ++ leftOver ∧
      fits (bytesWritten 1) (answersFor (bytesWritten 1)) = true := ⟨rfl, fits_answersFor _⟩

/-- The first and the last permitted polls of both profiles. -/
theorem witness_ResetDetectsPresenceWithinItsBudget (p : Prof) (k1 k2 : Nat)
    (h : p = .std ∧ k1 = 200 ∧ k2 = 240 ∨ p = .od ∧ k1 = 20 ∧ k2 = 20 ∨ k1 = 1 ∧ k2 = 1) :
    ∃ (s : State) (as rest : List Answer), s.polls = none ∧ PollsWithin p k1 k2 ∧ s.env = as ++ rest ∧
      fits (resetPresent k1 k2) as = true := by
  refine ⟨scripted 0 (resetPresent k1 k2), _, leftOver, rfl, ?_, rfl, fits_answersFor _⟩
  rcases h with ⟨rfl, rfl, rfl⟩ | ⟨rfl, rfl, rfl⟩ | ⟨rfl, rfl⟩
  · decide
  · decide
  · cases p <;> decide

/-- A script that fits the first `j` answers wanted and then fails. -/
def failing (m : Byte) (ws : List Wanted) (j : Nat) : State := ready m (answersFor (ws.take j) ++ ⟨255, true⟩ :: leftOver)

/-- The hypotheses of `FailingCallEnds` can be met at every call of every sequence. -/
theorem failing_meets (m : Byte) (ws : List Wanted) (j : Nat) :
    fits (ws.take j) (answersFor (ws.take j)) = true ∧ (⟨255, true⟩ : Answer).status ≠ 0 ∧
      (failing m ws j).env = answersFor (ws.take j) ++ ⟨255, true⟩ :: leftOver ∧ (failing m ws j).Quiet ∧
      (failing m ws j).Ready := ⟨fits_answersFor _, by decide, rfl, ⟨rfl, rfl, rfl, rfl, rfl, rfl⟩, rfl, rfl⟩

theorem witness_ResetReportsNoPresenceAndTransportFailure (p : Prof) :
    (∃ (s : State) (as rest : List Answer), s.polls = none ∧ s.env = as ++ rest ∧
      fits (([none, none] : List Wanted) ++ List.replicate p.timing.nPDL (some true)) as = true) ∧
    (∃ (s : State) (as rest : List Answer), s.polls = none ∧ s.env = as ++ rest ∧ 1 ≤ p.timing.nPDL ∧
      fits (([none, none] : List Wanted) ++ List.replicate (p.timing.nPDL - 1) (some true) ++ [some false]
        ++ List.replicate p.timing.nPDH (some false)) as = true) ∧
    PollsWithin p p.timing.nPDL p.timing.nPDH ∧
    (failing 0 (resetPresent p.timing.nPDL p.timing.nPDH) 0).polls = none ∧
    2 + p.timing.nPDL + p.timing.nPDH - 1 < (resetPresent p.timing.nPDL p.timing.nPDH).length :=
  ⟨⟨scripted 0 _, _, leftOver, rfl, rfl, fits_answersFor _⟩,
    ⟨scripted 0 _, _, leftOver, rfl, rfl, by cases p <;> decide, fits_answersFor _⟩, by cases p <;> decide, rfl,
    by cases p <;> decide +kernel⟩

theorem witness_ResetEmitsBoundedEvents : Instr.resetStd = .resetStd ∧ 886 = 886 ∨ Instr.resetStd = .resetOd ∧ 886 = 86 :=
  .inl ⟨rfl, rfl⟩

theorem witness_FailedFirstStepEndsTheSequence (m : Byte) (hm : m = 4 ∨ m = 5) :
    ∃ (s t : State) (c : Cause), s.Quiet ∧ s.Ready ∧ s.ModeLegal ∧ s.mode = m ∧
      exec .resetStd s = .next (t.reply (.micro (.err c))) ∧ exec .resetOd s = .next (t.reply (.micro (.err c))) ∧
      exec .address s = .next (t.reply (.micro (.err c))) ∧
      1 ≤ (64 : Byte).toNat ∧ (64 : Byte).toNat ≤ 64 ∧ (0x78 : Half).toNat % 8 = 0 ∧ (0x78 : Half).toNat < 0x80 := by
  refine ⟨ready m leftOver, ((ready m leftOver).irqOff.called (.w false)).irqOn, .transport,
    ⟨rfl, rfl, rfl, rfl, rfl, rfl⟩, ⟨rfl, rfl⟩, ⟨rfl, ?_⟩, rfl, rfl, rfl, ?_, by decide, by decide, by decide, by decide⟩
  · rcases hm with rfl | rfl <;> decide
  · rcases hm with rfl | rfl <;> rfl

/-- Each of the six modes, at the last permitted polls of its reset. -/
theorem witness_AddressSelectsByMode (m : Byte) (hm : m.toNat ≤ 5) :
    ∃ (s : State) (k1 k2 : Nat) (as rest : List Answer), s.mode = m ∧ s.Quiet ∧ s.Addressable k1 k2 ∧ s.env = as ++ rest ∧
      fits (addressed s.mode k1 k2) as = true := by
  refine ⟨scripted m (addressed m (modeReset m).timing.nPDL (modeReset m).timing.nPDH), (modeReset m).timing.nPDL,
    (modeReset m).timing.nPDH, _, leftOver, rfl, scripted_quiet _ _, ⟨⟨rfl, hm⟩, fun _ => rfl, ?_⟩, rfl, fits_answersFor _⟩
  show PollsWithin (modeReset m) _ _
  cases modeReset m <;> decide

theorem witness_RomMatchSendsTheOverdriveMatch :
    ∃ (s : State) (as rest : List Answer), s.Quiet ∧ s.Ready ∧ s.romReadable = true ∧ PollsWithin .std 200 240 ∧
      s.env = as ++ rest ∧ fits (resetPresent 200 240 ++ bytesWritten 9) as = true :=
  ⟨scripted 6 _, _, leftOver, scripted_quiet _ _, scripted_ready _ _, rfl, by decide, rfl, fits_answersFor _⟩

theorem witness_SearchChecksItsCapacity : (ready 0 []).Ready ∧ 64 < (65 : Byte).toNat ∧ 64 < (255 : Byte).toNat := by decide

/-- Each pair that is not (1, 1), with the position above, below and at the top of the stack. -/
theorem witness_TripletDecidesTheDirection (b c : Bool) (hbc : ¬(b = true ∧ c = true)) (p : Byte)
    (hp : p = 64 ∨ p = 9 ∨ p = 1) :
    ∃ (s : State) (q : Search) (as rest : List Answer), s.search = some q ∧ StackIncreasing q.stk ∧ 1 ≤ p.toNat ∧
      p.toNat ≤ 64 ∧ s.env = as ++ rest ∧ fits (tripletAnswers b c) as = true ∧ ¬(b = true ∧ c = true) ∧
      q.stk.getLastD 0 = 9 := by
  refine ⟨{ scripted 0 (tripletAnswers b c) with search := some { Search.start with stk := [3, 9] } },
    { Search.start with stk := [3, 9] }, _, leftOver, rfl, by decide, ?_, ?_, rfl, fits_answersFor _, hbc, rfl⟩ <;>
    rcases hp with rfl | rfl | rfl <;> decide

theorem witness_TripletWithoutResponseWritesNothing :
    (scripted 0 (slotRead true ++ slotRead true)).env = answersFor (slotRead true ++ slotRead true) ++ leftOver ∧
      fits (slotRead true ++ slotRead true) (answersFor (slotRead true ++ slotRead true)) = true :=
  ⟨rfl, fits_answersFor _⟩

theorem witness_TripletKeepsTheStackIncreasing :
    ({ ready 0 [] with search := some { Search.start with stk := [3, 9] } } : State).search
        = some { Search.start with stk := [3, 9] } ∧
      StackIncreasing [3, 9] ∧ 1 ≤ (1 : Byte).toNat ∧ (64 : Byte).toNat ≤ 64 := by decide

theorem witness_SearchCountIsAtMostTheCapacity :
    ∃ t, exec (.searchRom 0) (ready 0 []) = .next t ∧
      t.replies = (ready 0 []).replies ++ [hostReply 0 .ok (.search 0 [])] := ⟨_, rfl, rfl⟩

theorem witness_SearchFindsASingleDevice :
    ∃ (s : State) (as rest : List Answer), s.Quiet ∧ s.Ready ∧ 1 ≤ (1 : Byte).toNat ∧ (64 : Byte).toNat ≤ 64 ∧
      PollsWithin .std 200 240 ∧ s.env = as ++ rest ∧ fits (singlePass romB 200 240) as = true :=
  ⟨scripted 0 _, _, leftOver, scripted_quiet _ _, scripted_ready _ _, by decide, by decide, by decide, rfl,
    fits_answersFor _⟩

/-- The population of V-S1 in its discovery order: ROM-2 and ROM-1 differ first at position 9, ROM-1 and ROM-3 at 10. -/
def threeRoms : List Bytes8 :=
  [⟨0x2D, 0x02, 0, 0, 0, 0, 0, 0xB9⟩, ⟨0x2D, 0x01, 0, 0, 0, 0, 0, 0xE0⟩, ⟨0x2D, 0x03, 0, 0, 0, 0, 0, 0x8E⟩]

theorem threeRoms_ascending : RomsAscending threeRoms := by
  have below : ∀ (q r : Bytes8) (n : Nat), (∀ i < n, romBit q (i + 1) = romBit r (i + 1)) →
      ∀ i, 1 ≤ i → i < n + 1 → romBit q i = romBit r i := by
    intro q r n h i h1 h2
    have := h (i - 1) (by omega)
    rwa [Nat.sub_add_cancel h1] at this
  refine .cons ?_ (.cons ?_ (.cons (by simp) .nil))
  · intro r hr
    simp only [List.mem_cons, List.not_mem_nil, or_false] at hr
    rcases hr with rfl | rfl <;>
      exact ⟨9, by decide, by decide, by decide, by decide, below _ _ 8 (by decide)⟩
  · intro r hr
    simp only [List.mem_cons, List.not_mem_nil, or_false] at hr
    subst hr
    exact ⟨10, by decide, by decide, by decide, by decide, below _ _ 9 (by decide)⟩

theorem witness_SearchFindsEveryDeviceInOrder :
    ∃ (s : State) (polls : List (Nat × Nat)) (as rest : List Answer),
      s.Quiet ∧ s.Ready ∧ threeRoms ≠ [] ∧ RomsAscending threeRoms ∧
      polls.length = min (64 : Byte).toNat threeRoms.length ∧ (∀ k ∈ polls, PollsWithin .std k.1 k.2) ∧ s.env = as ++ rest ∧
      fits ((threeRoms.zip polls).flatMap fun x => populationPass threeRoms x.1 x.2.1 x.2.2) as = true :=
  ⟨scripted 0 _, [(1, 1), (200, 240), (1, 1)], _, leftOver, scripted_quiet _ _, scripted_ready _ _, by simp [threeRoms],
    threeRoms_ascending, rfl, by decide, rfl, fits_answersFor _⟩

/-- At the first position of the first pass, and at the last position of the last pass the capacity allows. -/
theorem witness_SearchEndsWhenNoDeviceResponds (n : Byte) (polls : List (Nat × Nat)) (p : Nat)
    (h : n = 1 ∧ polls = [] ∧ p = 1 ∨ n = 3 ∧ polls = [(1, 1), (200, 240)] ∧ p = 64) :
    ∃ (s : State) (r : Bytes8) (as rest : List Answer), s.Quiet ∧ s.Ready ∧ n.toNat ≤ 64 ∧ polls.length < n.toNat ∧
      RomsAscending threeRoms ∧ threeRoms[polls.length]? = some r ∧ (∀ k ∈ polls, PollsWithin .std k.1 k.2) ∧
      PollsWithin .std 200 240 ∧ 1 ≤ p ∧ p ≤ 64 ∧ s.env = as ++ rest ∧
      fits (populationPasses threeRoms polls ++ populationPrefix threeRoms r 200 240 (p - 1) ++ slotRead true
        ++ slotRead true) as = true := by
  rcases h with ⟨rfl, rfl, rfl⟩ | ⟨rfl, rfl, rfl⟩
  · exact ⟨scripted 0 _, _, _, leftOver, scripted_quiet _ _, scripted_ready _ _, by decide, by decide, threeRoms_ascending,
      rfl, by decide, by decide, by decide, by decide, rfl, fits_answersFor _⟩
  · exact ⟨scripted 0 _, _, _, leftOver, scripted_quiet _ _, scripted_ready _ _, by decide, by decide, threeRoms_ascending,
      rfl, by decide, by decide, by decide, by decide, rfl, fits_answersFor _⟩

/-- For the reset after a pass: a line that fails at the reset's first write. For the calls: those of the pass that follows. -/
theorem witness_SearchFailureReturnsNoIdentifiers :
    (1 : Byte).toNat ≤ 64 ∧ ([(1, 1)] : List (Nat × Nat)).length < (64 : Byte).toNat ∧ RomsAscending threeRoms ∧
    threeRoms[([(1, 1)] : List (Nat × Nat)).length]? = some ⟨0x2D, 0x01, 0, 0, 0, 0, 0, 0xE0⟩ ∧
    (∀ k ∈ ([(1, 1)] : List (Nat × Nat)), PollsWithin .std k.1 k.2) ∧ PollsWithin .std 200 240 ∧
    0 < (populationPass threeRoms romB 200 240).length ∧
    (∃ (s : State) (as rest : List Answer) (t : State) (c : Cause), s.Quiet ∧ s.Ready ∧ s.env = as ++ rest ∧
      fits (populationPasses threeRoms [(1, 1)]) as = true ∧
      exec .resetStd (s.ran (passesTrace threeRoms 0xF0 [(1, 1)]) rest) = .next (t.reply (.micro (.err c)))) :=
  ⟨by decide, by decide, threeRoms_ascending, rfl, by decide, by decide, by decide +kernel,
    scripted 0 (populationPasses threeRoms [(1, 1)]), _, leftOver,
    (((scripted 0 _).ran _ leftOver).irqOff.called (.w false)).irqOn, .transport, scripted_quiet _ _, scripted_ready _ _, rfl,
    fits_answersFor _, rfl⟩

/-- A mode that sends the ROM in overdrive, at the last permitted polls. -/
theorem scripted_addressable (ws : List Wanted) : (scripted 3 ws).Addressable 200 240 :=
  ⟨⟨rfl, by show 3 ≤ 5; decide⟩, fun _ => rfl, by show PollsWithin (modeReset 3) 200 240; decide⟩

/-- The CRC bytes of R275's example, and a status byte that is right and one that is not. -/
theorem witness_WriteScratchpadVerifiesTheReadback (x : Byte) (_ : x = 0xFF ∨ x = 0x00) :
    ∃ (s : State) (as rest : List Answer), s.Quiet ∧ s.Ready ∧ s.Addressable 200 240 ∧
      (0x0078 : Half).toNat % 8 = 0 ∧ (0x0078 : Half).toNat < 0x80 ∧ s.env = as ++ rest ∧
      fits (addressed s.mode 200 240 ++ bytesWritten 11 ++ bytesRead [0x3F, 0x2F, x]) as = true :=
  ⟨scripted 3 (addressed 3 200 240 ++ bytesWritten 11 ++ bytesRead [0x3F, 0x2F, x]), _, leftOver, scripted_quiet _ _, scripted_ready _ _, scripted_addressable _, by decide, by decide, rfl,
    fits_answersFor (addressed 3 200 240 ++ _ ++ _)⟩

theorem witness_ReadScratchpadChecksAfterTheFrame (es : Byte) (_ : es = 0x07 ∨ es = 0x87) :
    ∃ (s : State) (as rest : List Answer), s.Quiet ∧ s.Ready ∧ s.Addressable 200 240 ∧ s.env = as ++ rest ∧
      fits (addressed s.mode 200 240 ++ bytesWritten 1
        ++ bytesRead ([0, 0, es] ++ romB.toList ++ [0xB2, 0xD2, 0xFF])) as = true :=
  ⟨scripted 3 (addressed 3 200 240 ++ bytesWritten 1
    ++ bytesRead ([0, 0, es] ++ romB.toList ++ [0xB2, 0xD2, 0xFF])), _, leftOver, scripted_quiet _ _, scripted_ready _ _, scripted_addressable _, rfl, fits_answersFor (addressed 3 200 240 ++ _ ++ _)⟩

theorem witness_CopyScratchpadWaitsThenChecks (x : Byte) (_ : x = 0xAA ∨ x = 0x00) :
    ∃ (s : State) (as rest : List Answer), s.Quiet ∧ s.Ready ∧ s.Addressable 200 240 ∧
      (0x0078 : Half).toNat % 8 = 0 ∧ (0x0078 : Half).toNat < 0x80 ∧ s.env = as ++ rest ∧
      fits (addressed s.mode 200 240 ++ bytesWritten 4 ++ bytesRead [x]) as = true :=
  ⟨scripted 3 (addressed 3 200 240 ++ bytesWritten 4 ++ bytesRead [x]), _, leftOver, scripted_quiet _ _, scripted_ready _ _, scripted_addressable _, by decide, by decide, rfl,
    fits_answersFor (addressed 3 200 240 ++ _ ++ _)⟩

/-- The last call of each sequence is one of its calls; `failing_meets` gives the rest. -/
theorem witness_FailingCallEndsTheTransaction (ws : List Wanted) :
    0 < (addressed 3 200 240).length ∧ (failing 3 ws 0).Quiet ∧ (failing 3 ws 0).Ready ∧ (failing 3 ws 0).romReadable = true ∧ PollsWithin .std 200 240 ∧
      (failing 3 ws 0).Addressable 200 240 ∧ (0x78 : Half).toNat % 8 = 0 ∧ (0x78 : Half).toNat < 0x80 ∧
      (List.replicate 14 (0 : Byte)).length = 14 ∧ ([0x10] : List Byte).length = (1 : Half).toNat ∧
      PollsWithin (modeReset 3) 1 1 ∧
      crc16 ([0x0F, lo8 0, hi8 0] ++ (⟨1, 2, 3, 4, 5, 6, 7, 8⟩ : Bytes8).toList ++ [0x3F, 0x2F]) = 0xB001 :=
  ⟨by decide +kernel, ⟨rfl, rfl, rfl, rfl, rfl, rfl⟩, ⟨rfl, rfl⟩, rfl, by decide,
    ⟨⟨rfl, by show 3 ≤ 5; decide⟩, fun _ => rfl, by show PollsWithin (modeReset 3) 200 240; decide⟩, by decide, by decide,
    by decide, by decide, by decide, by decide +kernel⟩

/-- The last byte of data memory, and the configuration block. -/
theorem witness_MemoryReadsReturnTheBytesRead :
    (∃ (s : State) (as rest : List Answer), s.Quiet ∧ s.Ready ∧ s.Addressable 200 240 ∧
      ([0x10] : List Byte).length = (1 : Half).toNat ∧ (0x7F : Half).toNat + (1 : Half).toNat ≤ 128 ∧ s.env = as ++ rest ∧
      fits (addressed s.mode 200 240 ++ bytesWritten 3 ++ bytesRead [0x10]) as = true) ∧
    (∃ (s : State) (as rest : List Answer), s.Quiet ∧ s.Ready ∧ s.Addressable 200 240 ∧
      romB.toList.length = (8 : Half).toNat ∧ s.env = as ++ rest ∧
      fits (addressed s.mode 200 240 ++ bytesWritten 3 ++ bytesRead romB.toList) as = true) :=
  ⟨⟨scripted 3 (addressed 3 200 240 ++ bytesWritten 3 ++ bytesRead [0x10]), _, leftOver, scripted_quiet _ _, scripted_ready _ _, scripted_addressable _, by decide, by decide, rfl,
      fits_answersFor (addressed 3 200 240 ++ _ ++ _)⟩,
    scripted 3 (addressed 3 200 240 ++ bytesWritten 3 ++ bytesRead romB.toList), _, leftOver, scripted_quiet _ _, scripted_ready _ _, scripted_addressable _, by decide, rfl,
    fits_answersFor (addressed 3 200 240 ++ _ ++ _)⟩

theorem witness_PublicReadsAreMemRead :
    (ready 5 []).Ready ∧ (ready 5 []).ModeLegal ∧ (0 : Half).toNat + (128 : Half).toNat ≤ 128 := by decide

/-- A first session whose CRC verifies and a second session (R290's example), and a first session whose CRC does not. -/
theorem witness_PageWriteVerifiesThenCopies (addr : Half) (ha : addr = 0x0000 ∨ addr = 0x0078 ∨ addr = 0x0080) :
    addr.toNat % 8 = 0 ∧
    (∃ (s : State) (as as2 rest2 : List Answer), s.Quiet ∧ s.Ready ∧ s.Addressable 200 240 ∧ s.env = as ++ (as2 ++ rest2) ∧
      fits (addressed s.mode 200 240 ++ bytesWritten 11 ++ bytesRead [0x3F, 0x2F]) as = true ∧
      PollsWithin (modeReset s.mode) 1 1 ∧
      fits (addressed s.mode 1 1 ++ bytesWritten 4 ++ bytesRead [0xAA]) as2 = true) ∧
    crc16 ([0x0F, lo8 0x0000, hi8 0x0000] ++ (⟨1, 2, 3, 4, 5, 6, 7, 8⟩ : Bytes8).toList ++ [0x3F, 0x2F]) = 0xB001 ∧
    crc16 ([0x0F, lo8 0x0078, hi8 0x0078] ++ (⟨1, 2, 3, 4, 5, 6, 7, 8⟩ : Bytes8).toList ++ [0x3F, 0x2F]) ≠ 0xB001 := by
  refine ⟨by rcases ha with rfl | rfl | rfl <;> decide, ?_, by decide +kernel, by decide +kernel⟩
  let first := addressed 3 200 240 ++ bytesWritten 11 ++ bytesRead [0x3F, 0x2F]
  let second := addressed 3 1 1 ++ bytesWritten 4 ++ bytesRead [0xAA]
  exact ⟨ready 3 (answersFor first ++ (answersFor second ++ leftOver)), _, _, leftOver, ⟨rfl, rfl, rfl, rfl, rfl, rfl⟩,
    ⟨rfl, rfl⟩, ⟨⟨rfl, by show 3 ≤ 5; decide⟩, fun _ => rfl, by show PollsWithin (modeReset 3) 200 240; decide⟩, rfl,
    fits_answersFor first, by show PollsWithin (modeReset 3) 1 1; decide, fits_answersFor second⟩

theorem witness_WholePageWritesArePageWrite :
    (ready 5 []).Quiet ∧ (ready 5 []).Ready ∧ (ready 5 []).ModeLegal ∧ (0x78 : Half).toNat % 8 = 0 ∧
      (0x78 : Half).toNat < 0x80 := by decide

theorem witness_PartialPageWriteIsReadModifyWrite :
    (ready 5 []).Quiet ∧ (ready 5 []).Ready ∧ (ready 5 []).ModeLegal ∧ (0x78 : Half).toNat % 8 = 0 ∧
      (0x78 : Half).toNat < 0x80 ∧ 1 ≤ ([1, 2, 3, 4, 5, 6, 7] : List Byte).length ∧
      ([1, 2, 3, 4, 5, 6, 7] : List Byte).length < 8 ∧ 1 + ([1, 2, 3, 4, 5, 6, 7] : List Byte).length ≤ 8 ∧
      7 + ([1] : List Byte).length ≤ 8 := by decide

theorem witness_WriteSplitsAtPageBoundaries :
    (ready 5 []).Quiet ∧ (ready 5 []).Ready ∧ (ready 5 []).ModeLegal ∧ (0x80 : Half).toNat ≤ 128 ∧
      ((0x76 : Half).toNat + ([1, 2] : List Byte).length) % 8 = 0 ∧
      (0x76 : Half).toNat + ([1, 2] : List Byte).length + ([1, 2, 3, 4, 5, 6, 7, 8] : List Byte).length ≤ 128 := by decide

end Sys2Proof.Tests
end

section
/-! The argument checks of the addressed host operations: a failing one ends the operation with its status and cause, in an
unchanged state, before MODE is read (20_memory.md R77, 60_exceptions.md R364). -/

namespace Sys2Proof.Machine

theorem run_checkHandleInit_of_ready {s : State} (hs : s.Ready) : Proc.run checkHandleInit s = (.ok (), s) := by
  obtain ⟨hh, hi⟩ := hs
  simp [run_checkHandleInit, hh, hi]

/-- On a ready core the argument check decides before MODE is read, so nothing is asked of MODE. -/
theorem run_addressedPrelude_of_check_error {check : Proc Unit} {e : Stop} {s : State} (hs : s.Ready)
    (h : Proc.run check s = (.error e, s)) : Proc.run (addressedPrelude check) s = (.error e, s) := by
  rw [addressedPrelude, Proc.run_bind_ok (run_checkHandleInit_of_ready hs), Proc.run_bind_error h]

/-- A host operation whose body ends with `ERR(c)` in an unchanged state appends the response of that cause and nothing else. -/
theorem runHost_of_run_error {status : Cause → Byte} {body : Proc Output} {c : Cause} {s : State}
    (h : Proc.run body s = (.error (.err c), s)) :
    runHost status body s = .next (s.reply (hostReply (status c) c .none)) := by
  rw [runHost, h]
  rfl

theorem runHost_addressedPrelude_of_check_error (status : Cause → Byte) {check : Proc Unit} {rest : Unit → Proc Output}
    {c : Cause} {s : State} (hs : s.Ready) (h : Proc.run check s = (.error (.err c), s)) :
    runHost status (addressedPrelude check >>= rest) s = .next (s.reply (hostReply (status c) c .none)) :=
  runHost_of_run_error (Proc.run_bind_error (run_addressedPrelude_of_check_error hs h))

theorem run_checkRange_of_lt {addr : Half} {len : Nat} (h : 128 < addr.toNat + len) (s : State) :
    Proc.run (checkRange addr len) s = (.error (.err .argRange), s) := by
  have hbad : ¬ addr.toNat + len ≤ cfg.memSize := Nat.not_le.2 h
  simp [checkRange, hbad]

theorem run_checkPage_of_not_page_below {addr : Half} (h : addr.toNat % 8 ≠ 0 ∨ 0x80 ≤ addr.toNat) (s : State) :
    Proc.run (checkPage addr) s = (.error (.err .argAlign), s) := by
  have hbad : (addr.toNat % cfg.page == 0 && decide (addr.toNat < cfg.memSize)) = false := by
    rw [Bool.and_eq_false_iff]
    exact h.imp beq_false_of_ne fun hle => decide_eq_false (Nat.not_lt.2 hle)
  simp [checkPage, hbad]

/-- Settles O16: the first failing check of the operation is its argument check. -/
theorem badArgumentsAreRejectedFirst : Obligations.BadArgumentsAreRejectedFirst := by
  intro s hs
  refine ⟨fun addr len h => ⟨?_, ?_⟩, fun addr data h => ?_, fun addr data h => ⟨?_, ?_⟩⟩
  · exact runHost_addressedPrelude_of_check_error (HostOp.status .read) hs (run_checkRange_of_lt h s)
  · exact runHost_addressedPrelude_of_check_error (HostOp.status .readMemory) hs (run_checkRange_of_lt h s)
  · exact runHost_addressedPrelude_of_check_error (HostOp.status .write) hs (run_checkRange_of_lt h s)
  · exact runHost_addressedPrelude_of_check_error (HostOp.status .writeScratchpad) hs (run_checkPage_of_not_page_below h s)
  · exact runHost_addressedPrelude_of_check_error (HostOp.status .copyScratchpad) hs (run_checkPage_of_not_page_below h s)

end Sys2Proof.Machine
end

section
/-! Critical sections of host operations: whatever the environment answers, the events of every sequence that runs outside a
section are well bracketed (00_scope.md R13, 60_exceptions.md R368). Each byte operation, reset and search triplet is one
section (`OneSection`); everything above them only sequences sections, the copy wait and the bus (de)initialization. -/

namespace Sys2Proof.Machine

variable {α β : Type}

/-! ### Well-bracketed traces -/

theorem bracketed_append_of_eq_some {inside inside' : Bool} {xs : List PortEvent} (ys : List PortEvent)
    (h : bracketed inside xs = some inside') : bracketed inside (xs ++ ys) = bracketed inside' ys := by
  induction xs generalizing inside with
  | nil =>
    cases h
    rfl
  | cons e es ih =>
    rw [bracketed] at h
    rw [List.cons_append, bracketed]
    cases hstep : bracketStep inside e with
    | none => simp [hstep] at h
    | some next => exact ih (by simpa [hstep] using h)

theorem bracketStep_of_isLineEvent {e : PortEvent} (h : isLineEvent e = true) : bracketStep true e = some true := by
  cases e with
  | w _ | r | dus _ => rfl
  | dms _ | busInit | busDeinit | irqOff | irqOn => cases h

theorem bracketed_of_isLineEvent {evs : List PortEvent} (h : ∀ e ∈ evs, isLineEvent e = true) :
    bracketed true evs = some true := by
  induction evs with
  | nil => rfl
  | cons e es ih =>
    obtain ⟨he, hes⟩ := List.forall_mem_cons.1 h
    rw [bracketed, bracketStep_of_isLineEvent he]
    exact ih hes

theorem bracketed_section {mid : List PortEvent} (h : ∀ e ∈ mid, isLineEvent e = true) :
    bracketed false (.irqOff :: (mid ++ [.irqOn])) = some false := by
  rw [bracketed]
  exact bracketed_append_of_eq_some [.irqOn] (bracketed_of_isLineEvent h)

/-! ### Well-bracketed sequences -/

/-- Between the two states the trace grew by well-bracketed events, from outside a section to outside one. -/
def WellBracketed (s t : State) : Prop := ∃ evs, t.trace = s.trace ++ evs ∧ bracketed false evs = some false

theorem WellBracketed.of_trace_eq {s t : State} (h : t.trace = s.trace) : WellBracketed s t :=
  ⟨[], by rw [h, List.append_nil], rfl⟩

theorem WellBracketed.trans {s t u : State} (h : WellBracketed s t) (k : WellBracketed t u) : WellBracketed s u := by
  obtain ⟨xs, h1, h2⟩ := h
  obtain ⟨ys, k1, k2⟩ := k
  exact ⟨xs ++ ys, by rw [k1, h1, List.append_assoc], by rw [bracketed_append_of_eq_some ys h2, k2]⟩

theorem OneSection.wellBracketed {n : Nat} {s t : State} (h : OneSection n s t) : WellBracketed s t := by
  obtain ⟨mid, htrace, -, hline⟩ := h.trace
  exact ⟨_, htrace, bracketed_section hline⟩

/-- Every exit of a sequence, run outside a section, leaves a well-bracketed extension of the trace. -/
def Proc.Brackets (m : Proc α) : Prop := ∀ s, WellBracketed s (Proc.run m s).2

theorem Proc.brackets_pure (a : α) : Brackets (pure a : Proc α) := fun _ => .of_trace_eq rfl

theorem Proc.brackets_look (f : State → α) : Brackets (look f) := fun _ => .of_trace_eq rfl

theorem Proc.brackets_fail (c : Cause) : Brackets (fail c : Proc α) := fun _ => .of_trace_eq rfl

theorem Proc.brackets_stop (h : Halt) : Brackets (stop h : Proc α) := fun _ => .of_trace_eq rfl

theorem Proc.brackets_update {f : State → State} (h : ∀ s, (f s).trace = s.trace) : Brackets (update f) :=
  fun s => .of_trace_eq (h s)

theorem Proc.brackets_bind {m : Proc α} {f : α → Proc β} (hm : Brackets m) (hf : ∀ a, Brackets (f a)) :
    Brackets (m >>= f) := by
  intro s
  have h := hm s
  rw [run_bind]
  rcases hr : run m s with ⟨_ | a, t⟩ <;> rw [hr] at h
  · exact h
  · exact h.trans (hf a t)

theorem brackets_require (ok : Bool) (c : Cause) : Proc.Brackets (require ok c) := by
  cases ok
  · exact Proc.brackets_fail c
  · exact Proc.brackets_pure ()

open Proc

/-! ### Port primitives outside sections -/

theorem brackets_busInit : Brackets busInit := by
  intro s
  rw [run_busInit]
  split <;> exact ⟨[.busInit], rfl, rfl⟩

theorem brackets_busDeinit : Brackets busDeinit := by
  intro s
  rw [run_busDeinit]
  split <;> exact ⟨[.busDeinit], rfl, rfl⟩

theorem brackets_delayMs (n : Nat) : Brackets (delayMs n) := fun _ => ⟨[.dms n], rfl, rfl⟩

/-! ### Registers, transient state and the checks -/

theorem brackets_readMode : Brackets readMode := by
  intro s
  rw [run_readMode]
  split <;> exact .of_trace_eq rfl

theorem brackets_readRom : Brackets readRom := by
  intro s
  rw [run_readRom]
  split <;> exact .of_trace_eq rfl

theorem brackets_updateTx (f : ScratchTx → ScratchTx) : Brackets (updateTx f) := brackets_update fun _ => rfl

theorem brackets_updateSearch (f : Search → Search) : Brackets (updateSearch f) := brackets_update fun _ => rfl

theorem brackets_advanceCursor (k : Nat) : Brackets (advanceCursor k) := brackets_update fun _ => rfl

theorem brackets_withTx (ta : Half) (data : List Byte) {m : Proc α} (hm : Brackets m) : Brackets (withTx ta data m) :=
  fun s => hm { s with tx := some ⟨ta, data, cfg.crcInit, []⟩ }

theorem brackets_withSearch {m : Proc α} (hm : Brackets m) : Brackets (withSearch m) :=
  fun s => hm { s with search := some Search.start }

theorem brackets_withCursor (c : Cursor) {m : Proc α} (hm : Brackets m) : Brackets (withCursor c m) :=
  fun s => hm { s with cursor := some c }

theorem brackets_checkHandle : Brackets checkHandle := brackets_bind (brackets_look _) fun _ => brackets_require _ _

theorem brackets_checkHandleInit : Brackets checkHandleInit :=
  brackets_bind brackets_checkHandle fun _ => brackets_bind (brackets_look _) fun _ => brackets_require _ _

theorem brackets_addressedPrelude {check : Proc Unit} (h : Brackets check) : Brackets (addressedPrelude check) :=
  brackets_bind brackets_checkHandleInit fun _ => brackets_bind h fun _ =>
    brackets_bind brackets_readMode fun _ => brackets_require _ _

/-! ### Bytes, resets and addressing -/

theorem brackets_busReset (p : Prof) : Brackets (busReset p) := fun s => (oneSection_busReset p s).wellBracketed

theorem brackets_writeByte (p : Prof) (x : Byte) : Brackets (writeByte p x) :=
  fun s => (oneSection_writeByte p x s).wellBracketed

theorem brackets_readByte (p : Prof) : Brackets (readByte p) := fun s => (oneSection_readByte p s).1.wellBracketed

theorem brackets_writeBytes (p : Prof) : ∀ xs, Brackets (writeBytes p xs)
  | [] => brackets_pure _
  | _ :: xs => brackets_bind (brackets_writeByte _ _) fun _ => brackets_writeBytes p xs

theorem brackets_readBytes (p : Prof) : ∀ n, Brackets (readBytes p n)
  | 0 => brackets_pure _
  | n + 1 => brackets_bind (brackets_readByte _) fun _ => brackets_bind (brackets_readBytes p n) fun _ => brackets_pure _

theorem brackets_sendRom (p : Prof) : Brackets (sendRom p) :=
  brackets_bind brackets_readRom fun _ => brackets_writeBytes _ _

/-- What all addressing sequences begin with: a reset and a command byte, each a section of its own. -/
theorem brackets_resetThenByte (p q : Prof) (x : Byte) {rest : Unit → Proc α} (h : ∀ u, Brackets (rest u)) :
    Brackets (busReset p >>= fun _ => writeByte q x >>= rest) :=
  brackets_bind (brackets_busReset p) fun _ => brackets_bind (brackets_writeByte q x) h

theorem brackets_addressDevices : Brackets addressDevices := by
  refine brackets_bind brackets_readMode fun m => ?_
  split
  · exact brackets_resetThenByte _ _ _ fun _ => brackets_pure _
  · exact brackets_resetThenByte _ _ _ fun _ => brackets_pure _
  · exact brackets_resetThenByte _ _ _ fun _ => brackets_bind (brackets_sendRom _) fun _ => brackets_pure _
  · exact brackets_resetThenByte _ _ _ fun _ => brackets_bind (brackets_sendRom _) fun _ => brackets_pure _
  · exact brackets_resetThenByte _ _ _ fun _ => brackets_pure _
  · exact brackets_resetThenByte _ _ _ fun _ => brackets_pure _
  · exact brackets_fail _

/-! ### Search -/

theorem brackets_searchTriplet (p : Nat) : Brackets (searchTriplet p) :=
  fun s => (oneSection_searchTriplet p s).wellBracketed

theorem brackets_searchPositions : ∀ n, Brackets (searchPositions n)
  | 0 => brackets_pure _
  | n + 1 => by
    refine brackets_bind (brackets_searchTriplet _) fun t => ?_
    cases t with
    | none => exact brackets_pure _
    | some d => exact brackets_bind (brackets_updateSearch _) fun _ => brackets_searchPositions n

theorem brackets_searchPass (cmd : Byte) : Brackets (searchPass cmd) :=
  brackets_resetThenByte _ _ _ fun _ => brackets_bind (brackets_updateSearch _) fun _ => brackets_searchPositions _

theorem brackets_searchLoop (cmd : Byte) (n : Nat) : ∀ fuel, Brackets (searchLoop cmd n fuel)
  | 0 => brackets_pure _
  | fuel + 1 => by
    refine brackets_bind (brackets_searchPass _) fun full => ?_
    split
    · refine brackets_bind (brackets_updateSearch _) fun _ => brackets_bind (brackets_look _) fun q => ?_
      split
      · exact brackets_pure _
      · exact brackets_searchLoop cmd n fuel
    · exact brackets_pure _

theorem brackets_searchEngine (n : Nat) (cmd : Byte) : Brackets (searchEngine n cmd) := by
  unfold searchEngine
  split
  · exact brackets_pure _
  · exact brackets_withSearch (brackets_bind (brackets_searchLoop _ _ _) fun _ => brackets_look _)

/-! ### Memory transactions -/

theorem brackets_sendCounted (p : Prof) : ∀ xs, Brackets (sendCounted p xs)
  | [] => brackets_pure _
  | _ :: xs => brackets_bind (brackets_writeByte _ _) fun _ => brackets_bind (brackets_updateTx _) fun _ =>
      brackets_sendCounted p xs

theorem brackets_readCounted (p : Prof) : Brackets (readCounted p) :=
  brackets_bind (brackets_readByte _) fun _ => brackets_bind (brackets_updateTx _) fun _ =>
    brackets_bind (brackets_updateTx _) fun _ => brackets_pure _

theorem brackets_readStatus (p : Prof) : Brackets (readStatus p) :=
  brackets_bind (brackets_readByte _) fun _ => brackets_bind (brackets_updateTx _) fun _ => brackets_pure _

theorem brackets_readDataCounted (p : Prof) : ∀ n, Brackets (readDataCounted p n)
  | 0 => brackets_pure _
  | n + 1 => brackets_bind (brackets_readByte _) fun _ => brackets_bind (brackets_updateTx _) fun _ =>
      brackets_bind (brackets_updateTx _) fun _ => brackets_readDataCounted p n

theorem brackets_checkCrc : Brackets checkCrc := brackets_bind (brackets_look _) fun _ => brackets_require _ _

theorem brackets_sendWriteScratchpad (p : Prof) : Brackets (sendWriteScratchpad p) :=
  brackets_bind (brackets_look _) fun _ => brackets_sendCounted _ _

theorem brackets_copyFrame (p : Prof) : Brackets (copyFrame p) :=
  brackets_bind (brackets_look _) fun _ => brackets_bind (brackets_writeBytes _ _) fun _ =>
    brackets_bind (brackets_delayMs _) fun _ => brackets_bind (brackets_readStatus _) fun _ => brackets_require _ _

theorem brackets_readScratchpadFrame : Brackets readScratchpadFrame :=
  brackets_bind brackets_addressDevices fun _ => brackets_bind (brackets_sendCounted _ _) fun _ =>
    brackets_bind (brackets_readCounted _) fun _ => brackets_bind (brackets_readCounted _) fun _ =>
      brackets_bind (brackets_updateTx _) fun _ => brackets_bind (brackets_readCounted _) fun _ =>
        brackets_bind (brackets_readDataCounted _ _) fun _ => brackets_bind (brackets_readCounted _) fun _ =>
          brackets_bind (brackets_readCounted _) fun _ => brackets_bind (brackets_readStatus _) fun _ =>
            brackets_bind (brackets_require _ _) fun _ => brackets_bind (brackets_require _ _) fun _ =>
              brackets_bind brackets_checkCrc fun _ => brackets_bind (brackets_look _) fun _ => brackets_pure _

theorem brackets_memoryRead (addr : Half) (len : Nat) : Brackets (memoryRead addr len) :=
  brackets_bind brackets_addressDevices fun _ => brackets_bind (brackets_writeBytes _ _) fun _ => brackets_readBytes _ _

theorem brackets_pageWrite (addr : Half) (data : List Byte) : Brackets (pageWrite addr data) :=
  brackets_withTx _ _ <| brackets_bind brackets_addressDevices fun _ => brackets_bind (brackets_sendWriteScratchpad _) fun _ =>
    brackets_bind (brackets_readCounted _) fun _ => brackets_bind (brackets_readCounted _) fun _ =>
      brackets_bind brackets_checkCrc fun _ => brackets_bind brackets_addressDevices fun _ => brackets_copyFrame _

theorem brackets_writeChunk (data : List Byte) (c : Cursor) : Brackets (writeChunk data c) := by
  unfold writeChunk
  dsimp only
  split
  · exact brackets_pageWrite _ _
  · exact brackets_bind (brackets_memoryRead _ _) fun _ => brackets_pageWrite _ _

theorem brackets_writeLoop (data : List Byte) : ∀ fuel, Brackets (writeLoop data fuel)
  | 0 => brackets_pure _
  | fuel + 1 => by
    refine brackets_bind (brackets_look _) fun c => ?_
    split
    · exact brackets_pure _
    · exact brackets_bind (brackets_writeChunk _ _) fun _ => brackets_bind (brackets_advanceCursor _) fun _ =>
        brackets_writeLoop data fuel

/-! ### The bodies of the host operations -/

theorem brackets_initBody : Brackets initBody :=
  brackets_bind brackets_checkHandle fun _ => brackets_bind (brackets_look _) fun _ =>
    brackets_bind (brackets_require _ _) fun _ => brackets_bind brackets_busInit fun _ =>
      brackets_bind (brackets_update fun _ => rfl) fun _ => brackets_pure _

theorem brackets_deinitBody : Brackets deinitBody :=
  brackets_bind brackets_checkHandleInit fun _ => brackets_bind brackets_busDeinit fun _ =>
    brackets_bind (brackets_update fun _ => rfl) fun _ => brackets_pure _

theorem brackets_setModeBody (m : Byte) : Brackets (setModeBody m) :=
  brackets_bind brackets_checkHandleInit fun _ => brackets_bind (brackets_update fun _ => rfl) fun _ => brackets_pure _

theorem brackets_getModeBody : Brackets getModeBody :=
  brackets_bind brackets_checkHandleInit fun _ => brackets_bind brackets_readMode fun _ => brackets_pure _

theorem brackets_setRomBody (r : Bytes8) : Brackets (setRomBody r) :=
  brackets_bind brackets_checkHandleInit fun _ => brackets_bind (brackets_update fun _ => rfl) fun _ => brackets_pure _

theorem brackets_getRomBody : Brackets getRomBody :=
  brackets_bind brackets_checkHandleInit fun _ => brackets_bind brackets_readRom fun _ => brackets_pure _

theorem brackets_romMatchBody : Brackets romMatchBody :=
  brackets_bind brackets_checkHandleInit fun _ => brackets_resetThenByte _ _ _ fun _ =>
    brackets_bind (brackets_sendRom _) fun _ => brackets_pure _

theorem brackets_readBody (addr len : Half) : Brackets (readBody addr len) :=
  brackets_bind (brackets_addressedPrelude (brackets_require _ _)) fun _ =>
    brackets_bind (brackets_memoryRead _ _) fun _ => brackets_pure _

theorem brackets_writeBody (addr : Half) (data : List Byte) : Brackets (writeBody addr data) :=
  brackets_bind (brackets_addressedPrelude (brackets_require _ _)) fun _ =>
    brackets_bind (brackets_withCursor _ (brackets_writeLoop _ _)) fun _ => brackets_pure _

theorem brackets_readConfigBody : Brackets readConfigBody :=
  brackets_bind (brackets_addressedPrelude (brackets_pure _)) fun _ =>
    brackets_bind (brackets_memoryRead _ _) fun _ => brackets_pure _

theorem brackets_writeConfigBody (block : Bytes8) : Brackets (writeConfigBody block) :=
  brackets_bind (brackets_addressedPrelude (brackets_pure _)) fun _ =>
    brackets_bind (brackets_pageWrite _ _) fun _ => brackets_pure _

theorem brackets_readScratchpadBody : Brackets readScratchpadBody :=
  brackets_bind (brackets_addressedPrelude (brackets_pure _)) fun _ => brackets_withTx _ _ brackets_readScratchpadFrame

theorem brackets_writeScratchpadBody (addr : Half) (data : Bytes8) : Brackets (writeScratchpadBody addr data) :=
  brackets_bind (brackets_addressedPrelude (brackets_require _ _)) fun _ =>
    brackets_bind
      (brackets_withTx _ _ <| brackets_bind brackets_addressDevices fun _ =>
        brackets_bind (brackets_sendWriteScratchpad _) fun _ => brackets_bind (brackets_readCounted _) fun _ =>
          brackets_bind (brackets_readCounted _) fun _ => brackets_bind (brackets_readStatus _) fun _ =>
            brackets_bind brackets_checkCrc fun _ => brackets_require _ _)
      fun _ => brackets_pure _

theorem brackets_copyScratchpadBody (addr : Half) : Brackets (copyScratchpadBody addr) :=
  brackets_bind (brackets_addressedPrelude (brackets_require _ _)) fun _ =>
    brackets_bind (brackets_withTx _ _ (brackets_bind brackets_addressDevices fun _ => brackets_copyFrame _))
      fun _ => brackets_pure _

theorem brackets_searchRomBody (n : Byte) : Brackets (searchRomBody n) :=
  brackets_bind brackets_checkHandleInit fun _ => brackets_bind (brackets_require _ _) fun _ =>
    brackets_bind (brackets_searchEngine _ _) fun _ => brackets_pure _

/-! ### Host operations -/

@[simp] theorem hostEnd_trace (status : Cause → Byte) (r : Except Stop Output × State) :
    (hostEnd status r).trace = r.2.trace := by
  rcases r with ⟨(_ | _) | _, _⟩ <;> rfl

/-- Every host operation runs a body whose every exit is well bracketed, to its response. -/
theorem exec_host_eq_runHost_of_brackets {i : Instr} (h : i.level = .host) :
    ∃ (status : Cause → Byte) (body : Proc Output), Brackets body ∧ ∀ s, exec i s = runHost status body s := by
  cases i with
  | init => exact ⟨_, _, brackets_initBody, fun _ => rfl⟩
  | deinit => exact ⟨_, _, brackets_deinitBody, fun _ => rfl⟩
  | setMode m => exact ⟨_, _, brackets_setModeBody m, fun _ => rfl⟩
  | getMode => exact ⟨_, _, brackets_getModeBody, fun _ => rfl⟩
  | setRom r => exact ⟨_, _, brackets_setRomBody r, fun _ => rfl⟩
  | getRom => exact ⟨_, _, brackets_getRomBody, fun _ => rfl⟩
  | romMatch => exact ⟨_, _, brackets_romMatchBody, fun _ => rfl⟩
  | read addr len => exact ⟨_, _, brackets_readBody addr len, fun _ => rfl⟩
  | write addr data => exact ⟨_, _, brackets_writeBody addr data, fun _ => rfl⟩
  | readConfig => exact ⟨_, _, brackets_readConfigBody, fun _ => rfl⟩
  | writeConfig block => exact ⟨_, _, brackets_writeConfigBody block, fun _ => rfl⟩
  | readScratchpad => exact ⟨_, _, brackets_readScratchpadBody, fun _ => rfl⟩
  | writeScratchpad addr data => exact ⟨_, _, brackets_writeScratchpadBody addr data, fun _ => rfl⟩
  | copyScratchpad addr => exact ⟨_, _, brackets_copyScratchpadBody addr, fun _ => rfl⟩
  | readMemory addr len => exact ⟨_, _, brackets_readBody addr len, fun _ => rfl⟩
  | searchRom n => exact ⟨_, _, brackets_searchRomBody n, fun _ => rfl⟩
  | _ => cases h

/-- Settles O13: each host operation is a sequence of closed sections and of events that belong outside them. -/
theorem hostOperationsBracketTheirSections : Obligations.HostOperationsBracketTheirSections := by
  intro i s t hi hexec
  obtain ⟨status, body, hbody, hrun⟩ := exec_host_eq_runHost_of_brackets hi
  rw [hrun, runHost] at hexec
  injection hexec with ht
  rw [← ht, hostEnd_trace]
  exact hbody s

end Sys2Proof.Machine
end

section
/-! What every sequence is built from, so that a rule about all instructions is proved once for each shared operation, by
induction over how a sequence is built, and not once for each sequence. -/

namespace Sys2Proof.Machine

variable {α β : Type}

/-- The parts of the transient state (10_state.md R43 to R45). -/
inductive Transient where
  | tx | search | acc | polls | cursor

/-- The part of the transient state is absent, as it is outside the sequence that owns it. -/
def State.Absent (s : State) : Transient → Prop
  | .tx => s.tx = none
  | .search => s.search = none
  | .acc => s.acc = none
  | .polls => s.polls = none
  | .cursor => s.cursor = none

/-- The sequence is built from the shared operations of the core without any write of INITED, MODE or ROM, and changes no part
of the transient state but the one it is given (`owned`), except for parts that exist only while a sequence inside it runs.
A value it looks at does not depend on the written marks of MODE and ROM. -/
inductive Built : {α : Type} → (owned : Option Transient) → Proc α → Prop
  | pure {α : Type} {o : Option Transient} (a : α) : Built o (pure a : Proc α)
  | bind {α β : Type} {o : Option Transient} {m : Proc α} {f : α → Proc β} (hm : Built o m) (hf : ∀ a, Built o (f a)) :
      Built o (m >>= f)
  | fail {α : Type} {o : Option Transient} (c : Cause) : Built o (Proc.fail c : Proc α)
  | stop {α : Type} {o : Option Transient} (h : Halt) : Built o (Proc.stop h : Proc α)
  | look {α : Type} {o : Option Transient} {f : State → α} (hf : ∀ s : State, f s.allWritten = f s) : Built o (Proc.look f)
  | callOr {o : Option Transient} {e : PortEvent} (c : Cause) (he : e.isCall = true) : Built o (callOr e c)
  | setLine {o : Option Transient} (b : Bool) : Built o (setLine b)
  | delayUs {o : Option Transient} (n : Nat) : Built o (delayUs n)
  | delayMs {o : Option Transient} (n : Nat) : Built o (delayMs n)
  | critical {α : Type} {o : Option Transient} {m : Proc α} (hm : Built o m) : Built o (critical m)
  | readMode {o : Option Transient} : Built o readMode
  | readRom {o : Option Transient} : Built o readRom
  | shiftIn (v : Bool) : Built (some .acc) (shiftIn v)
  | countPoll : Built (some .polls) countPoll
  | updateTx (f : ScratchTx → ScratchTx) : Built (some .tx) (updateTx f)
  | updateSearch (f : Search → Search) : Built (some .search) (updateSearch f)
  | advanceCursor (k : Nat) : Built (some .cursor) (advanceCursor k)
  | withAcc {α : Type} {o : Option Transient} {m : Proc α} (hm : Built (some .acc) m) : Built o (withAcc m)
  | withPolls {α : Type} {o : Option Transient} {m : Proc α} (hm : Built (some .polls) m) : Built o (withPolls m)
  | withTx {α : Type} {o : Option Transient} {m : Proc α} (ta : Half) (data : List Byte) (hm : Built (some .tx) m) :
      Built o (withTx ta data m)
  | withSearch {α : Type} {o : Option Transient} {m : Proc α} (hm : Built (some .search) m) : Built o (withSearch m)
  | withCursor {α : Type} {o : Option Transient} {m : Proc α} (c : Cursor) (hm : Built (some .cursor) m) :
      Built o (withCursor c m)
  /-- A sequence that uses the search state only where there is one (TRIPLET run by itself, log 12). -/
  | lookSearch {α : Type} {o : Option Transient} {f : Option Search → Proc α} (hnone : Built o (f none))
      (hsome : ∀ q, Built (some .search) (f (some q))) : Built o (Proc.look State.search >>= f)

/-! ### Every sequence is built so -/

variable {o : Option Transient}

theorem built_require (ok : Bool) (c : Cause) : Built o (require ok c) := by
  cases ok
  · exact .fail c
  · exact .pure ()

theorem built_busInit : Built o busInit := (Built.callOr _ rfl).bind fun _ => .pure _

theorem built_busDeinit : Built o busDeinit := (Built.callOr _ rfl).bind fun _ => .pure _

theorem built_busWrite (b : Bool) : Built o (busWrite b) := (Built.callOr _ rfl).bind fun _ => .setLine b

theorem built_busRead : Built o busRead := (Built.callOr _ rfl).bind fun _ => .pure _

theorem built_checkHandle : Built o checkHandle := (Built.look fun _ => rfl).bind fun _ => built_require _ _

theorem built_checkHandleInit : Built o checkHandleInit :=
  built_checkHandle.bind fun _ => (Built.look fun _ => rfl).bind fun _ => built_require _ _

theorem built_addressedPrelude {check : Proc Unit} (h : Built o check) : Built o (addressedPrelude check) :=
  built_checkHandleInit.bind fun _ => h.bind fun _ => Built.readMode.bind fun _ => built_require _ _

/-! Bits, bytes and resets -/

theorem built_writeSlot (P : Profile) (b : Bool) : Built o (writeSlot P b) :=
  (built_busWrite _).bind fun _ => (Built.delayUs _).bind fun _ => (built_busWrite _).bind fun _ => .delayUs _

theorem built_readSlot (P : Profile) : Built o (readSlot P) :=
  (built_busWrite _).bind fun _ => (Built.delayUs _).bind fun _ => (built_busWrite _).bind fun _ =>
    (Built.delayUs _).bind fun _ => built_busRead.bind fun _ => (Built.delayUs _).bind fun _ => .pure _

theorem built_writeSlots (P : Profile) : ∀ bs, Built o (writeSlots P bs)
  | [] => .pure _
  | _ :: bs => (built_writeSlot _ _).bind fun _ => built_writeSlots P bs

theorem built_readSlots (P : Profile) : ∀ n, Built (some .acc) (readSlots P n)
  | 0 => .pure _
  | n + 1 => (built_readSlot _).bind fun v => (Built.shiftIn v).bind fun _ => built_readSlots P n

theorem built_writeByte (p : Prof) (x : Byte) : Built o (writeByte p x) := .critical (built_writeSlots _ _)

theorem built_readByte (p : Prof) : Built o (readByte p) :=
  .withAcc ((Built.critical (built_readSlots _ _)).bind fun _ => .look fun _ => rfl)

theorem built_writeBytes (p : Prof) : ∀ xs, Built o (writeBytes p xs)
  | [] => .pure _
  | _ :: xs => (built_writeByte _ _).bind fun _ => built_writeBytes p xs

theorem built_readBytes (p : Prof) : ∀ n, Built o (readBytes p n)
  | 0 => .pure _
  | n + 1 => (built_readByte _).bind fun _ => (built_readBytes p n).bind fun _ => .pure _

theorem built_pollLoop (P : Profile) (want : Bool) (budget : Nat) : ∀ n, Built (some .polls) (pollLoop P want budget n)
  | 0 => .fail _
  | n + 1 => by
    refine built_busRead.bind fun v => Built.countPoll.bind fun _ => (Built.delayUs _).bind fun _ =>
      (Built.look fun _ => rfl).bind fun k => ?_
    split
    · exact .pure _
    · split
      · exact built_pollLoop P want budget n
      · exact .fail _

theorem built_busReset (p : Prof) : Built o (busReset p) :=
  .critical <| (built_busWrite _).bind fun _ => (Built.delayUs _).bind fun _ => (built_busWrite _).bind fun _ =>
    (Built.delayUs _).bind fun _ => (Built.withPolls (built_pollLoop _ _ _ _)).bind fun _ =>
      .withPolls (built_pollLoop _ _ _ _)

/-! Addressing and search -/

theorem built_sendRom (p : Prof) : Built o (sendRom p) := Built.readRom.bind fun _ => built_writeBytes _ _

/-- What all addressing sequences begin with. -/
theorem built_resetThenByte (p q : Prof) (x : Byte) {rest : Unit → Proc α} (h : ∀ u, Built o (rest u)) :
    Built o (busReset p >>= fun _ => writeByte q x >>= rest) :=
  (built_busReset p).bind fun _ => (built_writeByte q x).bind h

theorem built_addressDevices : Built o addressDevices := by
  refine Built.readMode.bind fun m => ?_
  split
  · exact built_resetThenByte _ _ _ fun _ => .pure _
  · exact built_resetThenByte _ _ _ fun _ => .pure _
  · exact built_resetThenByte _ _ _ fun _ => (built_sendRom _).bind fun _ => .pure _
  · exact built_resetThenByte _ _ _ fun _ => (built_sendRom _).bind fun _ => .pure _
  · exact built_resetThenByte _ _ _ fun _ => .pure _
  · exact built_resetThenByte _ _ _ fun _ => .pure _
  · exact .fail _

theorem built_pushDiscrepancy (p : Nat) : Built (some .search) (pushDiscrepancy p) := by
  refine (Built.look fun _ => rfl).bind fun stk => ?_
  split
  · exact .updateSearch _
  · exact .stop _

theorem built_decideDirection (p : Nat) (b c : Bool) : Built (some .search) (decideDirection p b c) := by
  unfold decideDirection
  split
  · refine (Built.look fun _ => rfl).bind fun q => ?_
    split
    · exact (built_pushDiscrepancy _).bind fun _ => .pure _
    · split
      · exact .pure _
      · exact (Built.updateSearch _).bind fun _ => .pure _
  · exact .pure _

theorem built_searchTriplet (p : Nat) : Built (some .search) (searchTriplet p) := by
  refine .critical <| (built_readSlot _).bind fun b => (built_readSlot _).bind fun c => ?_
  split
  · exact .pure _
  · exact (built_decideDirection _ _ _).bind fun _ => (built_writeSlot _ _).bind fun _ => .pure _

theorem built_searchPositions : ∀ n, Built (some .search) (searchPositions n)
  | 0 => .pure _
  | n + 1 => by
    refine (built_searchTriplet _).bind fun t => ?_
    cases t with
    | none => exact .pure _
    | some d => exact (Built.updateSearch _).bind fun _ => built_searchPositions n

theorem built_searchPass (cmd : Byte) : Built (some .search) (searchPass cmd) :=
  built_resetThenByte _ _ _ fun _ => (Built.updateSearch _).bind fun _ => built_searchPositions _

theorem built_searchLoop (cmd : Byte) (n : Nat) : ∀ fuel, Built (some .search) (searchLoop cmd n fuel)
  | 0 => .pure _
  | fuel + 1 => by
    refine (built_searchPass _).bind fun full => ?_
    split
    · refine (Built.updateSearch _).bind fun _ => (Built.look fun _ => rfl).bind fun q => ?_
      split
      · exact .pure _
      · exact built_searchLoop cmd n fuel
    · exact .pure _

theorem built_searchEngine (n : Nat) (cmd : Byte) : Built o (searchEngine n cmd) := by
  unfold searchEngine
  split
  · exact .pure _
  · exact .withSearch ((built_searchLoop _ _ _).bind fun _ => .look fun _ => rfl)

theorem built_tripletBody (p : Nat) : Built o (tripletBody p) :=
  .lookSearch ((Built.withSearch (built_searchTriplet p)).bind fun _ => .pure _)
    fun _ => (built_searchTriplet p).bind fun _ => .pure _

/-! Memory transactions -/

theorem built_sendCounted (p : Prof) : ∀ xs, Built (some .tx) (sendCounted p xs)
  | [] => .pure _
  | _ :: xs => (built_writeByte _ _).bind fun _ => (Built.updateTx _).bind fun _ => built_sendCounted p xs

theorem built_readCounted (p : Prof) : Built (some .tx) (readCounted p) :=
  (built_readByte _).bind fun _ => (Built.updateTx _).bind fun _ => (Built.updateTx _).bind fun _ => .pure _

theorem built_readStatus (p : Prof) : Built (some .tx) (readStatus p) :=
  (built_readByte _).bind fun _ => (Built.updateTx _).bind fun _ => .pure _

theorem built_readDataCounted (p : Prof) : ∀ n, Built (some .tx) (readDataCounted p n)
  | 0 => .pure _
  | n + 1 => (built_readByte _).bind fun _ => (Built.updateTx _).bind fun _ => (Built.updateTx _).bind fun _ =>
      built_readDataCounted p n

theorem built_checkCrc : Built o checkCrc := (Built.look fun _ => rfl).bind fun _ => built_require _ _

theorem built_sendWriteScratchpad (p : Prof) : Built (some .tx) (sendWriteScratchpad p) :=
  (Built.look fun _ => rfl).bind fun _ => built_sendCounted _ _

theorem built_copyFrame (p : Prof) : Built (some .tx) (copyFrame p) :=
  (Built.look fun _ => rfl).bind fun _ => (built_writeBytes _ _).bind fun _ => (Built.delayMs _).bind fun _ =>
    (built_readStatus _).bind fun _ => built_require _ _

theorem built_readScratchpadFrame : Built (some .tx) readScratchpadFrame :=
  built_addressDevices.bind fun _ => (built_sendCounted _ _).bind fun _ =>
    (built_readCounted _).bind fun _ => (built_readCounted _).bind fun _ => (Built.updateTx _).bind fun _ =>
      (built_readCounted _).bind fun _ => (built_readDataCounted _ _).bind fun _ => (built_readCounted _).bind fun _ =>
        (built_readCounted _).bind fun _ => (built_readStatus _).bind fun _ => (built_require _ _).bind fun _ =>
          (built_require _ _).bind fun _ => built_checkCrc.bind fun _ => (Built.look fun _ => rfl).bind fun _ => .pure _

theorem built_memoryRead (addr : Half) (len : Nat) : Built o (memoryRead addr len) :=
  built_addressDevices.bind fun _ => (built_writeBytes _ _).bind fun _ => built_readBytes _ _

theorem built_pageWrite (addr : Half) (data : List Byte) : Built o (pageWrite addr data) :=
  .withTx _ _ <| built_addressDevices.bind fun _ => (built_sendWriteScratchpad _).bind fun _ =>
    (built_readCounted _).bind fun _ => (built_readCounted _).bind fun _ => built_checkCrc.bind fun _ =>
      built_addressDevices.bind fun _ => built_copyFrame _

theorem built_writeChunk (data : List Byte) (c : Cursor) : Built o (writeChunk data c) := by
  unfold writeChunk
  dsimp only
  split
  · exact built_pageWrite _ _
  · exact (built_memoryRead _ _).bind fun _ => built_pageWrite _ _

theorem built_writeLoop (data : List Byte) : ∀ fuel, Built (some .cursor) (writeLoop data fuel)
  | 0 => .pure _
  | fuel + 1 => by
    refine (Built.look fun _ => rfl).bind fun c => ?_
    split
    · exact .pure _
    · exact (built_writeChunk _ _).bind fun _ => (Built.advanceCursor _).bind fun _ => built_writeLoop data fuel

/-! The bodies of the host operations that write no register -/

theorem built_getModeBody : Built o getModeBody := built_checkHandleInit.bind fun _ => Built.readMode.bind fun _ => .pure _

theorem built_getRomBody : Built o getRomBody := built_checkHandleInit.bind fun _ => Built.readRom.bind fun _ => .pure _

theorem built_romMatchBody : Built o romMatchBody :=
  built_checkHandleInit.bind fun _ => built_resetThenByte _ _ _ fun _ => (built_sendRom _).bind fun _ => .pure _

theorem built_readBody (addr len : Half) : Built o (readBody addr len) :=
  (built_addressedPrelude (built_require _ _)).bind fun _ => (built_memoryRead _ _).bind fun _ => .pure _

theorem built_writeBody (addr : Half) (data : List Byte) : Built o (writeBody addr data) :=
  (built_addressedPrelude (built_require _ _)).bind fun _ =>
    (Built.withCursor _ (built_writeLoop _ _)).bind fun _ => .pure _

theorem built_readConfigBody : Built o readConfigBody :=
  (built_addressedPrelude (.pure _)).bind fun _ => (built_memoryRead _ _).bind fun _ => .pure _

theorem built_writeConfigBody (block : Bytes8) : Built o (writeConfigBody block) :=
  (built_addressedPrelude (.pure _)).bind fun _ => (built_pageWrite _ _).bind fun _ => .pure _

theorem built_readScratchpadBody : Built o readScratchpadBody :=
  (built_addressedPrelude (.pure _)).bind fun _ => .withTx _ _ built_readScratchpadFrame

theorem built_writeScratchpadBody (addr : Half) (data : Bytes8) : Built o (writeScratchpadBody addr data) :=
  (built_addressedPrelude (built_require _ _)).bind fun _ =>
    (Built.withTx _ _ <| built_addressDevices.bind fun _ => (built_sendWriteScratchpad _).bind fun _ =>
      (built_readCounted _).bind fun _ => (built_readCounted _).bind fun _ => (built_readStatus _).bind fun _ =>
        built_checkCrc.bind fun _ => built_require _ _).bind fun _ => .pure _

theorem built_copyScratchpadBody (addr : Half) : Built o (copyScratchpadBody addr) :=
  (built_addressedPrelude (built_require _ _)).bind fun _ =>
    (Built.withTx _ _ (built_addressDevices.bind fun _ => built_copyFrame _)).bind fun _ => .pure _

theorem built_searchRomBody (n : Byte) : Built o (searchRomBody n) :=
  built_checkHandleInit.bind fun _ => (built_require _ _).bind fun _ => (built_searchEngine _ _).bind fun _ => .pure _

end Sys2Proof.Machine
end

section
/-! What holds of every sequence built from the shared operations: it keeps the frame (10_state.md R47, R48, R51), leaves no
transient state behind (R43 to R45) and does not tell written registers from unwritten ones where reading those is no fault. -/

namespace Sys2Proof.Machine

variable {α : Type} {o : Option Transient}

theorem Built.framed {m : Proc α} (h : Built o m) : Proc.Framed m := by
  induction h with
  | pure a => exact Proc.framed_pure a
  | bind _ _ ihm ihf => exact Proc.framed_bind ihm ihf
  | fail c => exact Proc.framed_fail c
  | stop h => exact Proc.framed_stop h
  | look _ => exact Proc.framed_look _
  | callOr c he => exact framed_callOr c he
  | setLine _ | shiftIn _ | countPoll => exact Proc.framed_update fun s => .of_transient s _ _ _ _ _ _ _
  | delayUs n => exact framed_delayUs n
  | delayMs n => exact framed_delayMs n
  | critical _ ih => exact framed_critical ih
  | readMode => exact framed_readMode
  | readRom => exact framed_readRom
  | updateTx f => exact framed_updateTx f
  | updateSearch f => exact framed_updateSearch f
  | advanceCursor k => exact framed_advanceCursor k
  | withAcc _ ih => exact framed_withAcc ih
  | withPolls _ ih => exact framed_withPolls ih
  | withTx ta data _ ih => exact framed_withTx ta data ih
  | withSearch _ ih => exact framed_withSearch ih
  | withCursor c _ ih => exact framed_withCursor c ih
  | lookSearch _ _ ihnone ihsome =>
    exact Proc.framed_bind (Proc.framed_look _) fun
      | none => ihnone
      | some q => ihsome q

/-! ### Transient state -/

/-- Outside a critical section the sequence ends outside one, and every part of the transient state that was absent is absent
at its end, except the part the sequence may change. -/
structure Kept (owned : Option Transient) (s t : State) : Prop where
  cs : s.cs = false → t.cs = false
  absent : ∀ x, owned ≠ some x → s.Absent x → t.Absent x

theorem quiet_iff (s : State) : s.Quiet ↔ s.cs = false ∧ ∀ x, s.Absent x :=
  ⟨fun ⟨hcs, htx, hsearch, hacc, hpolls, hcursor⟩ => ⟨hcs, fun
    | .tx => htx
    | .search => hsearch
    | .acc => hacc
    | .polls => hpolls
    | .cursor => hcursor⟩,
  fun ⟨hcs, h⟩ => ⟨hcs, h .tx, h .search, h .acc, h .polls, h .cursor⟩⟩

theorem Kept.quiet {s t : State} (h : Kept none s t) (hs : s.Quiet) : t.Quiet := by
  obtain ⟨hcs, habsent⟩ := (quiet_iff s).1 hs
  exact (quiet_iff t).2 ⟨h.cs hcs, fun x => h.absent x nofun (habsent x)⟩

theorem Kept.refl (s : State) : Kept o s s := ⟨id, fun _ _ => id⟩

theorem Kept.trans {s t u : State} (h : Kept o s t) (k : Kept o t u) : Kept o s u :=
  ⟨fun hs => k.cs (h.cs hs), fun x hx hs => k.absent x hx (h.absent x hx hs)⟩

/-- A change of anything but CS and the transient state. -/
theorem Kept.of_eq {s t : State} (hcs : t.cs = s.cs) (htx : t.tx = s.tx) (hsearch : t.search = s.search)
    (hacc : t.acc = s.acc) (hpolls : t.polls = s.polls) (hcursor : t.cursor = s.cursor) : Kept o s t :=
  ⟨hcs.trans, fun
    | .tx, _, h => htx.trans h
    | .search, _, h => hsearch.trans h
    | .acc, _, h => hacc.trans h
    | .polls, _, h => hpolls.trans h
    | .cursor, _, h => hcursor.trans h⟩

/-- The same state but for the one part of the transient state. -/
structure SameBut (x : Transient) (s t : State) : Prop where
  cs : t.cs = s.cs
  absent : ∀ y, y ≠ x → s.Absent y → t.Absent y

theorem SameBut.kept {x : Transient} {s t : State} (h : SameBut x s t) : Kept (some x) s t :=
  ⟨h.cs.trans, fun y hy => h.absent y fun e => hy (e ▸ rfl)⟩

/-- A part of the transient state that is created before a sequence and discarded after it: nothing of it is left. -/
theorem Kept.of_scope {x : Transient} {s s' t' t : State} (hopen : SameBut x s s') (h : Kept (some x) s' t')
    (hclose : SameBut x t' t) (hx : t.Absent x) : Kept o s t := by
  obtain ⟨hcs, habsent⟩ := (hopen.kept.trans h).trans hclose.kept
  refine ⟨hcs, fun y _ hy => ?_⟩
  by_cases hyx : y = x
  · exact hyx ▸ hx
  · exact habsent y (fun e => hyx (Option.some.inj e).symm) hy

theorem sameBut_tx (s : State) (v : Option ScratchTx) : SameBut .tx s { s with tx := v } :=
  ⟨rfl, fun
    | .search, _, h | .acc, _, h | .polls, _, h | .cursor, _, h => h
    | .tx, hx, _ => absurd rfl hx⟩

theorem sameBut_search (s : State) (v : Option Search) : SameBut .search s { s with search := v } :=
  ⟨rfl, fun
    | .tx, _, h | .acc, _, h | .polls, _, h | .cursor, _, h => h
    | .search, hx, _ => absurd rfl hx⟩

theorem sameBut_acc (s : State) (v : Option Byte) : SameBut .acc s { s with acc := v } :=
  ⟨rfl, fun
    | .tx, _, h | .search, _, h | .polls, _, h | .cursor, _, h => h
    | .acc, hx, _ => absurd rfl hx⟩

theorem sameBut_polls (s : State) (v : Option Nat) : SameBut .polls s { s with polls := v } :=
  ⟨rfl, fun
    | .tx, _, h | .search, _, h | .acc, _, h | .cursor, _, h => h
    | .polls, hx, _ => absurd rfl hx⟩

theorem sameBut_cursor (s : State) (v : Option Cursor) : SameBut .cursor s { s with cursor := v } :=
  ⟨rfl, fun
    | .tx, _, h | .search, _, h | .acc, _, h | .polls, _, h => h
    | .cursor, hx, _ => absurd rfl hx⟩

theorem kept_bind {β : Type} {m : Proc α} {f : α → Proc β} (hm : ∀ s, Kept o s (Proc.run m s).2)
    (hf : ∀ a s, Kept o s (Proc.run (f a) s).2) (s : State) : Kept o s (Proc.run (m >>= f) s).2 := by
  have h := hm s
  rw [Proc.run_bind]
  rcases hr : Proc.run m s with ⟨_ | a, t⟩ <;> rw [hr] at h
  · exact h
  · exact h.trans (hf a t)

theorem kept_callOr (e : PortEvent) (c : Cause) (s : State) : Kept o s (Proc.run (callOr e c) s).2 := by
  rw [run_callOr]
  split <;> exact .of_eq rfl rfl rfl rfl rfl rfl

theorem kept_readMode (s : State) : Kept o s (Proc.run readMode s).2 := by
  rw [run_readMode]
  split <;> exact .refl s

theorem kept_readRom (s : State) : Kept o s (Proc.run readRom s).2 := by
  rw [run_readRom]
  split <;> exact .refl s

/-- A critical section is closed on every exit, whatever runs in it (10_state.md R41). -/
theorem kept_critical {m : Proc α} (hm : ∀ s, Kept o s (Proc.run m s).2) (s : State) :
    Kept o s (Proc.run (critical m) s).2 :=
  ⟨fun _ => rfl, fun
    | .tx => (hm s.irqOff).absent .tx
    | .search => (hm s.irqOff).absent .search
    | .acc => (hm s.irqOff).absent .acc
    | .polls => (hm s.irqOff).absent .polls
    | .cursor => (hm s.irqOff).absent .cursor⟩

/-- The search state is changed only where there was one, so an absent one stays absent. -/
theorem kept_lookSearch {f : Option Search → Proc α} (hnone : ∀ s, Kept o s (Proc.run (f none) s).2)
    (hsome : ∀ q s, Kept (some .search) s (Proc.run (f (some q)) s).2) (s : State) :
    Kept o s (Proc.run (Proc.look State.search >>= f) s).2 := by
  rw [Proc.run_bind_ok (Proc.run_look _ _)]
  cases hq : s.search with
  | none => exact hnone s
  | some q =>
    refine ⟨(hsome q s).cs, fun x _ hx => (hsome q s).absent x (fun e => ?_) hx⟩
    cases e
    exact absurd (hq.symm.trans hx) nofun

/-- A sequence leaves no transient state but the part it may change (10_state.md R41, R43 to R45). -/
theorem Built.kept {m : Proc α} (h : Built o m) : ∀ s, Kept o s (Proc.run m s).2 := by
  induction h with
  | pure _ | fail _ | stop _ | look _ => exact .refl
  | bind _ _ ihm ihf => exact kept_bind ihm ihf
  | callOr c _ => exact kept_callOr _ c
  | setLine _ | delayUs _ | delayMs _ => exact fun _ => .of_eq rfl rfl rfl rfl rfl rfl
  | critical _ ih => exact kept_critical ih
  | readMode => exact kept_readMode
  | readRom => exact kept_readRom
  | shiftIn _ => exact fun s => (sameBut_acc s _).kept
  | countPoll => exact fun s => (sameBut_polls s _).kept
  | updateTx _ => exact fun s => (sameBut_tx s _).kept
  | updateSearch _ => exact fun s => (sameBut_search s _).kept
  | advanceCursor _ => exact fun s => (sameBut_cursor s _).kept
  | withAcc _ ih => exact fun s => .of_scope (sameBut_acc s _) (ih _) (sameBut_acc _ none) rfl
  | withPolls _ ih => exact fun s => .of_scope (sameBut_polls s _) (ih _) (sameBut_polls _ none) rfl
  | withTx _ _ _ ih => exact fun s => .of_scope (sameBut_tx s _) (ih _) (sameBut_tx _ none) rfl
  | withSearch _ ih => exact fun s => .of_scope (sameBut_search s _) (ih _) (sameBut_search _ none) rfl
  | withCursor _ _ ih => exact fun s => .of_scope (sameBut_cursor s _) (ih _) (sameBut_cursor _ none) rfl
  | lookSearch _ _ ihnone ihsome => exact kept_lookSearch ihnone ihsome

/-! ### Written marks -/

/-- Run on a core on which reading an unwritten register is no fault, the sequence ends the same whether MODE and ROM are
counted as written or not, but for those marks. -/
def Proc.IgnoresMarks (m : Proc α) : Prop :=
  ∀ s : State, s.unwrittenFaults = false → run m s.allWritten = ((run m s).1, (run m s).2.allWritten)

theorem Proc.ignoresMarks_bind {β : Type} {m : Proc α} {f : α → Proc β} (hframed : Framed m) (hm : IgnoresMarks m)
    (hf : ∀ a, IgnoresMarks (f a)) : IgnoresMarks (m >>= f) := by
  intro s hs
  have hfaults := (hframed s).unwrittenFaults.trans hs
  have h := hm s hs
  rw [run_bind, run_bind, h]
  rcases hr : run m s with ⟨_ | a, t⟩
  · rfl
  · rw [hr] at hfaults
    exact hf a t hfaults

theorem ignoresMarks_callOr (e : PortEvent) (c : Cause) : Proc.IgnoresMarks (callOr e c) := by
  intro s _
  have hanswer : (s.allWritten.emit e).answer = (s.emit e).answer := rfl
  rw [run_callOr, run_callOr, hanswer]
  split <;> rfl

theorem ignoresMarks_readMode : Proc.IgnoresMarks readMode := by
  intro s hs
  have hreadable : s.modeReadable = true := by simp [State.modeReadable, hs]
  rw [run_readMode, run_readMode, if_pos hreadable]
  rfl

theorem ignoresMarks_readRom : Proc.IgnoresMarks readRom := by
  intro s hs
  have hreadable : s.romReadable = true := by simp [State.romReadable, hs]
  rw [run_readRom, run_readRom, if_pos hreadable]
  rfl

theorem ignoresMarks_look {f : State → α} (hf : ∀ s : State, f s.allWritten = f s) : Proc.IgnoresMarks (Proc.look f) := by
  intro s _
  rw [Proc.run_look, Proc.run_look, hf]

/-- A sequence run between two changes of state that do not depend on the marks, the second made on every exit. -/
theorem ignoresMarks_enclosed {m : Proc α} {enter leave : State → State}
    (hfaults : ∀ s, (enter s).unwrittenFaults = s.unwrittenFaults)
    (henter : ∀ s : State, enter s.allWritten = (enter s).allWritten)
    (hleave : ∀ s : State, leave s.allWritten = (leave s).allWritten) (hm : Proc.IgnoresMarks m) :
    Proc.IgnoresMarks (Proc.update enter >>= fun _ => m.ensuring leave) := by
  intro s hs
  rw [Proc.run_bind_ok (Proc.run_update _ _), Proc.run_bind_ok (Proc.run_update _ _), Proc.run_ensuring, Proc.run_ensuring,
    henter, hm _ ((hfaults s).trans hs), hleave]

theorem Built.ignoresMarks {m : Proc α} (h : Built o m) : Proc.IgnoresMarks m := by
  induction h with
  | look hf => exact ignoresMarks_look hf
  | bind hm _ ihm ihf => exact Proc.ignoresMarks_bind hm.framed ihm ihf
  | callOr c _ => exact ignoresMarks_callOr _ c
  | readMode => exact ignoresMarks_readMode
  | readRom => exact ignoresMarks_readRom
  | pure _ | fail _ | stop _ => exact fun _ _ => rfl
  | setLine _ | delayUs _ | delayMs _ | shiftIn _ | countPoll => exact fun _ _ => rfl
  | updateTx _ | updateSearch _ | advanceCursor _ => exact fun _ _ => rfl
  | critical _ ih => exact ignoresMarks_enclosed (fun _ => rfl) (fun _ => rfl) (fun _ => rfl) ih
  | withAcc _ ih | withPolls _ ih | withSearch _ ih | withTx _ _ _ ih | withCursor _ _ ih =>
    exact ignoresMarks_enclosed (fun _ => rfl) (fun _ => rfl) (fun _ => rfl) ih
  | lookSearch _ _ ihnone ihsome =>
    exact Proc.ignoresMarks_bind (Proc.framed_look _) (ignoresMarks_look fun _ => rfl) fun
      | none => ihnone
      | some q => ihsome q

end Sys2Proof.Machine
end

section
/-! What an instruction can do, said once: it runs one sequence, and where that succeeds it makes the one register write that
is the instruction's own, if it has one; it ends with its reply, or with a recorded stop. -/

namespace Sys2Proof.Machine

variable {α : Type}

/-! ### The register write of an instruction -/

/-- The register write with which INIT, DEINIT, SET_MODE and SET_ROM end where they succeed (46_handle_control.md R331, R332,
R333, R335); every other instruction makes none (10_state.md R51). -/
def registerWrite (i : Instr) (s : State) : State :=
  match i with
  | .init => { s with inited := true }
  | .deinit => { s with inited := false }
  | .setMode m => { s with mode := m, modeWritten := true }
  | .setRom r => { s with rom := r, romWritten := true }
  | _ => s

@[simp] theorem registerWrite_caps (i : Instr) (s : State) : (registerWrite i s).caps = s.caps := by cases i <;> rfl

@[simp] theorem registerWrite_unwrittenFaults (i : Instr) (s : State) :
    (registerWrite i s).unwrittenFaults = s.unwrittenFaults := by cases i <;> rfl

@[simp] theorem registerWrite_inbox (i : Instr) (s : State) : (registerWrite i s).inbox = s.inbox := by cases i <;> rfl

@[simp] theorem registerWrite_handle (i : Instr) (s : State) : (registerWrite i s).handle = s.handle := by cases i <;> rfl

@[simp] theorem registerWrite_env (i : Instr) (s : State) : (registerWrite i s).env = s.env := by cases i <;> rfl

@[simp] theorem registerWrite_trace (i : Instr) (s : State) : (registerWrite i s).trace = s.trace := by cases i <;> rfl

@[simp] theorem registerWrite_replies (i : Instr) (s : State) : (registerWrite i s).replies = s.replies := by
  cases i <;> rfl

@[simp] theorem registerWrite_halt (i : Instr) (s : State) : (registerWrite i s).halt = s.halt := by cases i <;> rfl

theorem registerWrite_inited {i : Instr} (hinit : i ≠ .init) (hdeinit : i ≠ .deinit) (s : State) :
    (registerWrite i s).inited = s.inited := by
  cases i with
  | init => exact absurd rfl hinit
  | deinit => exact absurd rfl hdeinit
  | _ => rfl

theorem registerWrite_mode {i : Instr} (h : ∀ m, i ≠ .setMode m) (s : State) :
    (registerWrite i s).mode = s.mode ∧ (registerWrite i s).modeWritten = s.modeWritten := by
  cases i with
  | setMode m => exact absurd rfl (h m)
  | _ => exact ⟨rfl, rfl⟩

theorem registerWrite_rom {i : Instr} (h : ∀ r, i ≠ .setRom r) (s : State) :
    (registerWrite i s).rom = s.rom ∧ (registerWrite i s).romWritten = s.romWritten := by
  cases i with
  | setRom r => exact absurd rfl (h r)
  | _ => exact ⟨rfl, rfl⟩

theorem kept_registerWrite (i : Instr) (s : State) : Kept none s (registerWrite i s) := by
  cases i <;> exact .of_eq rfl rfl rfl rfl rfl rfl

theorem registerWrite_allWritten (i : Instr) (s : State) : registerWrite i s.allWritten = (registerWrite i s).allWritten := by
  cases i <;> rfl

/-! ### Every instruction as one sequence -/

/-- The state an instruction ends in, given how its sequence ended. -/
def ended (i : Instr) (ok : α → Reply) (err : Cause → Reply) : Except Stop α × State → State
  | (.ok a, t) => (registerWrite i t).reply (ok a)
  | (.error (.err c), t) => t.reply (err c)
  | (.error (.halt h), t) => t.halted h

/-- A reply of the instruction's kind: a host response exactly for a host operation. -/
def Reply.OfKind (i : Instr) (r : Reply) : Prop := (∃ resp, r = .host resp) ↔ i.level = .host

/-- The reply is no host response with a status other than 0. -/
def Reply.Succeeds (r : Reply) : Prop := ∀ st c out, r = hostReply st c out → st = 0

/-- The instruction runs the sequence `m`; `ok` and `err` are its replies. -/
structure RunsAs (i : Instr) (m : Proc α) (ok : α → Reply) (err : Cause → Reply) : Prop where
  built : Built none m
  exec_eq : ∀ s, exec i s = .next (ended i ok err (Proc.run m s))
  ok_kind : ∀ a, (ok a).OfKind i
  err_kind : ∀ c, (err c).OfKind i
  ok_succeeds : ∀ a, (ok a).Succeeds

/-- The instruction runs some sequence. -/
def RunsSequence (i : Instr) : Prop :=
  ∃ (α : Type) (m : Proc α) (ok : α → Reply) (err : Cause → Reply), RunsAs i m ok err

theorem hostReply_ofKind {i : Instr} (hi : i.level = .host) (st : Byte) (c : Cause) (out : Output) :
    (hostReply st c out).OfKind i :=
  ⟨fun _ => hi, fun _ => ⟨_, rfl⟩⟩

theorem micro_ofKind {i : Instr} (hi : i.level ≠ .host) (r : MicroResult) : (Reply.micro r).OfKind i :=
  ⟨nofun, fun h => absurd h hi⟩

/-- A host operation without a register write. -/
theorem runsSequence_of_runHost {i : Instr} {status : Cause → Byte} {body : Proc Output} (hi : i.level = .host)
    (hwrite : ∀ s, registerWrite i s = s) (hbody : Built none body) (hexec : ∀ s, exec i s = runHost status body s) :
    RunsSequence i := by
  refine ⟨_, body, fun out => hostReply 0 .ok out, fun c => hostReply (status c) c .none, hbody, fun s => ?_,
    fun _ => hostReply_ofKind hi _ _ _, fun _ => hostReply_ofKind hi _ _ _, fun _ _ _ _ h => ?_⟩
  · rw [hexec, runHost]
    rcases Proc.run body s with ⟨(_ | _) | _, _⟩
    · rfl
    · rfl
    · simp only [hostEnd, ended, hwrite, hostReply]
  · cases h
    rfl

/-- A host operation that ends with its register write. -/
theorem runsSequence_of_runHost_write {i : Instr} {status : Cause → Byte} {body : Proc Output} {checks : Proc Unit}
    (hi : i.level = .host) (hchecks : Built none checks)
    (hbody : body = checks >>= fun _ => Proc.update (registerWrite i) >>= fun _ => pure .none)
    (hexec : ∀ s, exec i s = runHost status body s) : RunsSequence i := by
  refine ⟨_, checks, fun _ => hostReply 0 .ok .none, fun c => hostReply (status c) c .none, hchecks, fun s => ?_,
    fun _ => hostReply_ofKind hi _ _ _, fun _ => hostReply_ofKind hi _ _ _, fun _ _ _ _ h => ?_⟩
  · rw [hexec, runHost, hbody, Proc.run_bind]
    rcases Proc.run checks s with ⟨(_ | _) | _, _⟩ <;> rfl
  · cases h
    rfl

/-- A micro-operation or wire command, run by itself. -/
theorem runsSequence_of_runMicro {i : Instr} {body : Proc MicroResult} (hi : i.level ≠ .host)
    (hwrite : ∀ s, registerWrite i s = s) (hbody : Built none body) (hexec : ∀ s, exec i s = runMicro body s) :
    RunsSequence i := by
  refine ⟨_, body, .micro, fun c => .micro (.err c), hbody, fun s => ?_, fun _ => micro_ofKind hi _,
    fun _ => micro_ofKind hi _, fun _ => nofun⟩
  rw [hexec, runMicro]
  rcases Proc.run body s with ⟨(_ | _) | _, _⟩
  · rfl
  · rfl
  · simp only [microEnd, ended, hwrite]

theorem runsSequence_of_microUnit {i : Instr} {body : Proc Unit} (hi : i.level ≠ .host)
    (hwrite : ∀ s, registerWrite i s = s) (hbody : Built none body) (hexec : ∀ s, exec i s = microUnit body s) :
    RunsSequence i :=
  runsSequence_of_runMicro hi hwrite (hbody.bind fun _ => .pure _) hexec

/-- The checks of INIT and its call of `BusInit` (46_handle_control.md R331). -/
def initChecks : Proc Unit := do
  checkHandle
  let caps ← Proc.look State.caps
  require caps.connected .missingCap
  busInit

/-- The checks of DEINIT and its call of `BusDeinit` (R332). -/
def deinitChecks : Proc Unit := do
  checkHandleInit
  busDeinit

theorem initBody_eq : initBody = initChecks >>= fun _ => Proc.update (registerWrite .init) >>= fun _ => pure .none := by
  simp only [initChecks, bind_assoc]
  rfl

theorem deinitBody_eq :
    deinitBody = deinitChecks >>= fun _ => Proc.update (registerWrite .deinit) >>= fun _ => pure .none := by
  simp only [deinitChecks, bind_assoc]
  rfl

theorem built_initChecks : Built none initChecks :=
  built_checkHandle.bind fun _ => (Built.look fun _ => rfl).bind fun _ => (built_require _ _).bind fun _ => built_busInit

theorem built_deinitChecks : Built none deinitChecks := built_checkHandleInit.bind fun _ => built_busDeinit

theorem runsSequence (i : Instr) : RunsSequence i := by
  cases i with
  | init => exact runsSequence_of_runHost_write rfl built_initChecks initBody_eq fun _ => rfl
  | deinit => exact runsSequence_of_runHost_write rfl built_deinitChecks deinitBody_eq fun _ => rfl
  | setMode m => exact runsSequence_of_runHost_write rfl built_checkHandleInit rfl fun _ => rfl
  | setRom r => exact runsSequence_of_runHost_write rfl built_checkHandleInit rfl fun _ => rfl
  | getMode => exact runsSequence_of_runHost rfl (fun _ => rfl) built_getModeBody fun _ => rfl
  | getRom => exact runsSequence_of_runHost rfl (fun _ => rfl) built_getRomBody fun _ => rfl
  | romMatch => exact runsSequence_of_runHost rfl (fun _ => rfl) built_romMatchBody fun _ => rfl
  | read addr len => exact runsSequence_of_runHost rfl (fun _ => rfl) (built_readBody addr len) fun _ => rfl
  | write addr data => exact runsSequence_of_runHost rfl (fun _ => rfl) (built_writeBody addr data) fun _ => rfl
  | readConfig => exact runsSequence_of_runHost rfl (fun _ => rfl) built_readConfigBody fun _ => rfl
  | writeConfig block => exact runsSequence_of_runHost rfl (fun _ => rfl) (built_writeConfigBody block) fun _ => rfl
  | readScratchpad => exact runsSequence_of_runHost rfl (fun _ => rfl) built_readScratchpadBody fun _ => rfl
  | writeScratchpad addr data =>
    exact runsSequence_of_runHost rfl (fun _ => rfl) (built_writeScratchpadBody addr data) fun _ => rfl
  | copyScratchpad addr => exact runsSequence_of_runHost rfl (fun _ => rfl) (built_copyScratchpadBody addr) fun _ => rfl
  | readMemory addr len => exact runsSequence_of_runHost rfl (fun _ => rfl) (built_readBody addr len) fun _ => rfl
  | searchRom n => exact runsSequence_of_runHost rfl (fun _ => rfl) (built_searchRomBody n) fun _ => rfl
  | resetStd | resetOd => exact runsSequence_of_microUnit nofun (fun _ => rfl) (built_busReset _) fun _ => rfl
  | wbitStd b | wbitOd b => exact runsSequence_of_microUnit nofun (fun _ => rfl) (built_writeSlot _ b) fun _ => rfl
  | rbitStd | rbitOd =>
    exact runsSequence_of_runMicro nofun (fun _ => rfl) ((built_readSlot _).bind fun _ => .pure _) fun _ => rfl
  | rbyteStd | rbyteOd =>
    exact runsSequence_of_runMicro nofun (fun _ => rfl) ((built_readByte _).bind fun _ => .pure _) fun _ => rfl
  | triplet p => exact runsSequence_of_runMicro nofun (fun _ => rfl) (built_tripletBody p.toNat) fun _ => rfl
  | address =>
    exact runsSequence_of_runMicro nofun (fun _ => rfl) (built_addressDevices.bind fun _ => .pure _) fun _ => rfl
  | pageWrite addr data =>
    exact runsSequence_of_microUnit nofun (fun _ => rfl) (built_pageWrite addr data.toList) fun _ => rfl
  | memRead addr len =>
    exact runsSequence_of_runMicro nofun (fun _ => rfl) ((built_memoryRead addr len.toNat).bind fun _ => .pure _)
      fun _ => rfl
  | searchEngine n cmd =>
    exact runsSequence_of_runMicro nofun (fun _ => rfl) ((built_searchEngine n.toNat cmd).bind fun _ => .pure _)
      fun _ => rfl
  -- WBYTE and the wire commands: one byte is sent.
  | _ => exact runsSequence_of_microUnit nofun (fun _ => rfl) (built_writeByte _ _) fun _ => rfl

/-- How an instruction ends whose sequence left the state `t`: with its register write and a reply of success, with a reply of
failure and no write, or stopped. -/
inductive Ends (i : Instr) (t : State) : State → Prop
  | success (r : Reply) (hkind : r.OfKind i) (hsucceeds : r.Succeeds) : Ends i t ((registerWrite i t).reply r)
  | failure (r : Reply) (hkind : r.OfKind i) : Ends i t (t.reply r)
  | stopped (h : Halt) : Ends i t (t.halted h)

/-- Everything an instruction can do. -/
theorem exec_cases (i : Instr) (s : State) : ∃ t u, exec i s = .next u ∧ Frame s t ∧ Kept none s t ∧ Ends i t u := by
  obtain ⟨α, m, ok, err, hruns⟩ := runsSequence i
  refine ⟨_, _, hruns.exec_eq s, hruns.built.framed s, hruns.built.kept s, ?_⟩
  rcases Proc.run m s with ⟨(c | h) | a, t⟩
  · exact .failure (err c) (hruns.err_kind c)
  · exact .stopped h
  · exact .success (ok a) (hruns.ok_kind a) (hruns.ok_succeeds a)

theorem exec_next_cases {i : Instr} {s u : State} (h : exec i s = .next u) : ∃ t, Frame s t ∧ Kept none s t ∧ Ends i t u := by
  obtain ⟨t, u', hexec, hends⟩ := exec_cases i s
  cases h.symm.trans hexec
  exact ⟨t, hends⟩

end Sys2Proof.Machine
end

section
/-! The state between requests, and what any instruction may change of it. -/

namespace Sys2Proof.Machine

/-! ### Transient state -/

/-- Settles O7: each conjunct is a field of the reset state. -/
theorem resetStateIsTheSpecs : Obligations.ResetStateIsTheSpecs := by
  unfold Obligations.ResetStateIsTheSpecs
  decide

/-- Settles O8: each conjunct is a field of the reset state. -/
theorem resetIsQuiet : Obligations.ResetIsQuiet := by
  unfold Obligations.ResetIsQuiet
  decide

theorem exec_keeps_quiet {i : Instr} {s u : State} (hs : s.Quiet) (hexec : exec i s = .next u) : u.Quiet := by
  obtain ⟨t, -, hkept, hends⟩ := exec_next_cases hexec
  cases hends with
  | success r _ _ => exact (hkept.trans (kept_registerWrite i t)).quiet hs
  | failure r _ => exact hkept.quiet hs
  | stopped h => exact hkept.quiet hs

/-- A step that answers a next state waits and changes nothing, or runs the instruction of the request it takes. -/
theorem step_next_cases {s t : State} (h : step s = .next t) :
    t = s ∨ ∃ r rest i, exec i (s.takeRequest r rest) = .next t := by
  unfold step at h
  split at h
  · next stop _ => cases stop <;> cases h
  · split at h
    · exact .inl (Host.Outcome.next.inj h).symm
    · next r rest _ =>
      split at h
      · cases h
      · next i _ => exact .inr ⟨r, rest, i, h⟩

/-- Settles O9: a step waits, or runs one instruction, and every instruction discards whatever transient state it created. -/
theorem stepKeepsQuiet : Obligations.StepKeepsQuiet := by
  intro s t hs hstep
  obtain rfl | ⟨r, rest, i, hexec⟩ := step_next_cases hstep
  · exact hs
  · have hq : (s.takeRequest r rest).Quiet := hs
    exact exec_keeps_quiet hq hexec

/-! ### Registers -/

/-- An instruction that makes its register write appends a reply, and that reply is no failure. -/
theorem status_eq_zero_of_success {i : Instr} {s t : State} {r : Reply} {st : Byte} {c : Cause} {out : Output}
    (hframe : Frame s t) (hsucceeds : r.Succeeds)
    (h : ((registerWrite i t).reply r).replies = s.replies ++ [hostReply st c out]) : st = 0 := by
  rw [State.reply_replies, registerWrite_replies, hframe.replies] at h
  exact hsucceeds st c out (List.singleton_inj.1 (List.append_cancel_left h))

/-- Settles O10: the instruction's own register write is the only one, and it comes with a reply of success. -/
theorem onlyControlOperationsWriteRegisters : Obligations.OnlyControlOperationsWriteRegisters := by
  intro i s u hexec
  obtain ⟨t, hframe, -, hends⟩ := exec_next_cases hexec
  cases hends with
  | success r _ hsucceeds =>
    refine ⟨fun hinit hdeinit => ?_, fun hmode => ?_, fun hrom => ?_, fun st c out hreply hst => ?_, ?_, ?_⟩
    · exact (registerWrite_inited hinit hdeinit t).trans hframe.inited
    · obtain ⟨hvalue, hmark⟩ := registerWrite_mode hmode t
      exact ⟨hvalue.trans hframe.mode, hmark.trans hframe.modeWritten⟩
    · obtain ⟨hvalue, hmark⟩ := registerWrite_rom hrom t
      exact ⟨hvalue.trans hframe.rom, hmark.trans hframe.romWritten⟩
    · exact absurd (status_eq_zero_of_success hframe hsucceeds hreply) hst
    · exact (registerWrite_caps i t).trans hframe.caps
    · exact (registerWrite_unwrittenFaults i t).trans hframe.unwrittenFaults
  | failure _ _ | stopped _ =>
    exact ⟨fun _ _ => hframe.inited, fun _ => ⟨hframe.mode, hframe.modeWritten⟩, fun _ => ⟨hframe.rom, hframe.romWritten⟩,
      fun _ _ _ _ _ => ⟨hframe.inited, hframe.mode, hframe.modeWritten, hframe.rom, hframe.romWritten⟩, hframe.caps,
      hframe.unwrittenFaults⟩

/-! ### Events, answers and replies -/

/-- Settles O11: the sequence of the instruction keeps the frame, and what ends it is one reply or one recorded stop. -/
theorem everyInstructionEndsWithOneReplyOrAStop : Obligations.EveryInstructionEndsWithOneReplyOrAStop := by
  intro i s
  obtain ⟨t, u, hexec, hframe, -, hends⟩ := exec_cases i s
  obtain ⟨evs, htrace, henv⟩ := hframe.trace
  refine ⟨u, evs, hexec, ?_⟩
  cases hends with
  | success r hkind _ =>
    have hreplies := congrArg (· ++ [r]) ((registerWrite_replies i t).trans hframe.replies)
    exact ⟨(registerWrite_trace i t).trans htrace, (registerWrite_env i t).trans henv,
      (registerWrite_inbox i t).trans hframe.inbox, (registerWrite_handle i t).trans hframe.handle,
      .inl ⟨r, hreplies, hkind, (registerWrite_halt i t).trans hframe.halt⟩⟩
  | failure r hkind =>
    exact ⟨htrace, henv, hframe.inbox, hframe.handle,
      .inl ⟨r, congrArg (· ++ [r]) hframe.replies, hkind, hframe.halt⟩⟩
  | stopped h => exact ⟨htrace, henv, hframe.inbox, hframe.handle, .inr ⟨hframe.replies, h, rfl⟩⟩

/-! ### What SET stored -/

theorem exec_keeps_handle {i : Instr} {s u : State} (hexec : exec i s = .next u) : u.handle = s.handle := by
  obtain ⟨t, hframe, -, hends⟩ := exec_next_cases hexec
  cases hends with
  | success r _ _ => exact (registerWrite_handle i t).trans hframe.handle
  | failure _ _ | stopped _ => exact hframe.handle

/-- What every instruction of a list keeps, the list keeps. -/
theorem execAll_keeps {P : State → Prop} {is : List Instr}
    (hkeep : ∀ i ∈ is, ∀ s t, P s → exec i s = .next t → P t) {s u : State} (h : execAll is s = some u) (hs : P s) : P u := by
  induction is generalizing s with
  | nil =>
    cases h
    exact hs
  | cons i is ih =>
    obtain ⟨hi, his⟩ := List.forall_mem_cons.1 hkeep
    rw [execAll] at h
    cases hexec : exec i s with
    | next t =>
      rw [hexec] at h
      exact ih his h (hi s t hs hexec)
    | fault _ | refused _ =>
      rw [hexec] at h
      cases h

theorem exec_setMode_of_ready {s : State} (hs : s.Ready) (m : Byte) :
    exec (.setMode m) s = .next ({ s with mode := m, modeWritten := true }.reply (hostReply 0 .ok .none)) := by
  show runHost _ (setModeBody m) s = _
  rw [runHost, setModeBody, Proc.run_bind_ok (run_checkHandleInit_of_ready hs)]
  rfl

theorem exec_setRom_of_ready {s : State} (hs : s.Ready) (r : Bytes8) :
    exec (.setRom r) s = .next ({ s with rom := r, romWritten := true }.reply (hostReply 0 .ok .none)) := by
  show runHost _ (setRomBody r) s = _
  rw [runHost, setRomBody, Proc.run_bind_ok (run_checkHandleInit_of_ready hs)]
  rfl

theorem exec_getMode_of_readable {s : State} (hs : s.Ready) (hmode : s.modeReadable = true) :
    exec .getMode s = .next (s.reply (hostReply 0 .ok (.mode s.mode))) := by
  show runHost _ getModeBody s = _
  rw [runHost, getModeBody, Proc.run_bind_ok (run_checkHandleInit_of_ready hs), Proc.run_bind, run_readMode, if_pos hmode]
  rfl

theorem exec_getRom_of_readable {s : State} (hs : s.Ready) (hrom : s.romReadable = true) :
    exec .getRom s = .next (s.reply (hostReply 0 .ok (.rom s.rom))) := by
  show runHost _ getRomBody s = _
  rw [runHost, getRomBody, Proc.run_bind_ok (run_checkHandleInit_of_ready hs), Proc.run_bind, run_readRom, if_pos hrom]
  rfl

/-- MODE has been written and holds `m`, on a request that names the core. -/
def HoldsMode (m : Byte) (s : State) : Prop := s.handle = .core ∧ s.mode = m ∧ s.modeWritten = true

/-- ROM has been written and holds `r`, on a request that names the core. -/
def HoldsRom (r : Bytes8) (s : State) : Prop := s.handle = .core ∧ s.rom = r ∧ s.romWritten = true

theorem setMode_holdsMode {m : Byte} {s t : State} (hs : s.Ready) (h : exec (.setMode m) s = .next t) : HoldsMode m t := by
  cases h.symm.trans (exec_setMode_of_ready hs m)
  obtain ⟨hhandle, -⟩ := hs
  exact ⟨hhandle, rfl, rfl⟩

theorem setRom_holdsRom {r : Bytes8} {s t : State} (hs : s.Ready) (h : exec (.setRom r) s = .next t) : HoldsRom r t := by
  cases h.symm.trans (exec_setRom_of_ready hs r)
  obtain ⟨hhandle, -⟩ := hs
  exact ⟨hhandle, rfl, rfl⟩

theorem exec_keeps_holdsMode {i : Instr} (hi : ∀ m, i ≠ .setMode m) {m : Byte} {s t : State} (h : HoldsMode m s)
    (hexec : exec i s = .next t) : HoldsMode m t := by
  obtain ⟨hhandle, hvalue, hmark⟩ := h
  obtain ⟨-, hmode, -⟩ := onlyControlOperationsWriteRegisters i s t hexec
  obtain ⟨hvalue', hmark'⟩ := hmode hi
  exact ⟨(exec_keeps_handle hexec).trans hhandle, hvalue'.trans hvalue, hmark'.trans hmark⟩

theorem exec_keeps_holdsRom {i : Instr} (hi : ∀ r, i ≠ .setRom r) {r : Bytes8} {s t : State} (h : HoldsRom r s)
    (hexec : exec i s = .next t) : HoldsRom r t := by
  obtain ⟨hhandle, hvalue, hmark⟩ := h
  obtain ⟨-, -, hrom, -⟩ := onlyControlOperationsWriteRegisters i s t hexec
  obtain ⟨hvalue', hmark'⟩ := hrom hi
  exact ⟨(exec_keeps_handle hexec).trans hhandle, hvalue'.trans hvalue, hmark'.trans hmark⟩

/-- Settles O14: SET stores its operand and marks it written, no other instruction changes either, and GET reads it. -/
theorem getReturnsTheLastValueSet : Obligations.GetReturnsTheLastValueSet := by
  refine ⟨fun m is s t u hs hset his hrun hinited => ?_, fun r is s t u hs hset his hrun hinited => ?_⟩
  · obtain ⟨hhandle, rfl, hmark⟩ :=
      execAll_keeps (fun i hi _ _ => exec_keeps_holdsMode (his i hi)) hrun (setMode_holdsMode hs hset)
    exact exec_getMode_of_readable ⟨hhandle, hinited⟩ (by simp [State.modeReadable, hmark])
  · obtain ⟨hhandle, rfl, hmark⟩ :=
      execAll_keeps (fun i hi _ _ => exec_keeps_holdsRom (his i hi)) hrun (setRom_holdsRom hs hset)
    exact exec_getRom_of_readable ⟨hhandle, hinited⟩ (by simp [State.romReadable, hmark])

/-! ### Written marks -/

theorem ended_allWritten {α : Type} (i : Instr) (ok : α → Reply) (err : Cause → Reply) (r : Except Stop α) (t : State) :
    ended i ok err (r, t.allWritten) = (ended i ok err (r, t)).allWritten := by
  rcases r with (c | h) | a
  · rfl
  · rfl
  · exact congrArg (State.reply · (ok a)) (registerWrite_allWritten i t)

/-- Settles O20: where reading an unwritten register is no fault, no part of an instruction depends on the marks. -/
theorem unwrittenRegistersReadTheValueTheyHold : Obligations.UnwrittenRegistersReadTheValueTheyHold := by
  intro i s hs
  obtain ⟨α, m, ok, err, hruns⟩ := runsSequence i
  refine ⟨_, hruns.exec_eq s, ?_⟩
  rw [hruns.exec_eq, hruns.built.ignoresMarks s hs, ended_allWritten]

end Sys2Proof.Machine
end

section
/-! What a step does with the oldest waiting request (20_memory.md R85). -/

namespace Sys2Proof.Machine

/-- Settles O4: no stop, a waiting request and bytes that decode leave only the branch of `step` that runs the instruction. -/
theorem stepRunsTheDecodedRequest : Obligations.StepRunsTheDecodedRequest := by
  intro s r rest i hhalt hinbox hdecode
  have hrun : step s = exec i (s.takeRequest r rest) := by simp only [step, hhalt, hinbox, hdecode]
  rw [hrun, State.takeRequest]

end Sys2Proof.Machine
end

section
/-! Decoding and encoding are inverse (30_encoding.md R100, R102, R103, R106, R108, R111). Both directions are about
`decodeFirst` with whatever bytes follow the instruction: it reads an instruction's own bytes back, and it reads nothing but
the bytes of a well-formed instruction of its level. -/

namespace Sys2Proof

/-! ### Operands -/

theorem toNat_half (b0 b1 : Byte) : (half b0 b1).toNat = b0.toNat + 256 * b1.toNat := by
  have hb0 : b0.toNat < 2 ^ 8 := b0.isLt
  have hor : b1.toNat <<< 8 ||| b0.toNat = b1.toNat <<< 8 + b0.toNat := (Nat.shiftLeft_add_eq_or_of_lt hb0 _).symm
  simp only [half, BitVec.toNat_or, BitVec.toNat_shiftLeft, BitVec.toNat_setWidth]
  rw [Nat.mod_eq_of_lt (by omega), Nat.mod_eq_of_lt (a := b1.toNat) (by omega),
    Nat.mod_eq_of_lt (by rw [Nat.shiftLeft_eq]; omega), Nat.or_comm, hor, Nat.shiftLeft_eq]
  omega

theorem toNat_lo8 (a : Half) : (lo8 a).toNat = a.toNat % 256 := by
  simp [lo8]

theorem toNat_hi8 (a : Half) : (hi8 a).toNat = a.toNat / 256 := by
  rw [hi8, BitVec.toNat_setWidth, BitVec.toNat_ushiftRight, Nat.shiftRight_eq_div_pow]
  omega

theorem half_lo8_hi8 (a : Half) : half (lo8 a) (hi8 a) = a := by
  apply BitVec.eq_of_toNat_eq
  rw [toNat_half, toNat_lo8, toNat_hi8]
  omega

theorem encodeHalf_half (b0 b1 : Byte) : encodeHalf (half b0 b1) = [b0, b1] := by
  have hlo : lo8 (half b0 b1) = b0 := by
    apply BitVec.eq_of_toNat_eq
    rw [toNat_lo8, toNat_half]
    omega
  have hhi : hi8 (half b0 b1) = b1 := by
    apply BitVec.eq_of_toNat_eq
    rw [toNat_hi8, toNat_half]
    omega
  rw [encodeHalf, hlo, hhi]

theorem bitOfByte_eq_some_iff {x : Byte} {b : Bool} : bitOfByte x = some b ↔ x = byteOfBit b := by
  unfold bitOfByte
  split
  · next h => subst h; cases b <;> decide
  · split
    · next h => subst h; cases b <;> decide
    · cases b <;> simp_all [byteOfBit]

theorem take8_eq_some_iff {bytes rest : List Byte} {v : Bytes8} :
    take8 bytes = some (v, rest) ↔ bytes = v.toList ++ rest := by
  constructor
  · intro h
    unfold take8 at h
    split at h
    · cases h
      rfl
    · cases h
  · rintro rfl
    rfl

theorem takeHalf_eq_some_iff {bytes rest : List Byte} {a : Half} :
    takeHalf bytes = some (a, rest) ↔ bytes = encodeHalf a ++ rest := by
  constructor
  · intro h
    unfold takeHalf at h
    split at h
    · cases h
      rw [encodeHalf_half]
      rfl
    · cases h
  · rintro rfl
    simp [encodeHalf, takeHalf, half_lo8_hi8]

/-! ### Reading an instruction's own operands back -/

theorem take8_toList_append (v : Bytes8) (rest : List Byte) : take8 (v.toList ++ rest) = some (v, rest) := rfl

theorem with8_toList_append (id : Byte) (v : Bytes8) (rest : List Byte) (f : Bytes8 → Instr) :
    with8 id (v.toList ++ rest) f = .ok (f v, rest) := rfl

theorem withHalf_encodeHalf_append (id : Byte) (a : Half) (rest : List Byte) (f : Half → List Byte → Decoded) :
    withHalf id (encodeHalf a ++ rest) f = f a rest := by
  rw [withHalf, takeHalf_eq_some_iff.2 rfl]

theorem writeData_append (id : Byte) (addr : Half) {data : List Byte} (h : wfWriteLength data = true) (rest : List Byte) :
    writeData id addr (BitVec.ofNat 16 data.length) (data ++ rest) = .ok (.write addr data, rest) := by
  have hlen : (BitVec.ofNat 16 data.length).toNat = data.length :=
    Nat.mod_eq_of_lt (of_decide_eq_true h)
  simp [writeData, hlen]

theorem checked_of_wf (id : Byte) {i : Instr} (h : i.wf = true) (rest : List Byte) : checked id i rest = .ok (i, rest) :=
  if_pos h

theorem decodeHost_operandBytes {i : Instr} (hlevel : i.level = .host) (hwf : i.wf = true) (rest : List Byte) :
    decodeHost i.opByte (i.operandBytes ++ rest) = .ok (i, rest) := by
  cases i with
  | init | deinit | getMode | getRom | romMatch | readConfig | readScratchpad => rfl
  | setMode _ | searchRom _ | setRom _ | writeConfig _ => rfl
  | copyScratchpad _ | read _ _ | readMemory _ _ | writeScratchpad _ _ =>
    simp [decodeHost, Instr.opByte, Instr.operandBytes, withHalf_encodeHalf_append, with8_toList_append]
  | write addr data =>
    have hlen : wfWriteLength data = true := hwf
    simp [decodeHost, Instr.opByte, Instr.operandBytes, withHalf_encodeHalf_append, writeData_append, hlen]
  | _ => cases hlevel

theorem decodeMicro_operandBytes {i : Instr} (hlevel : i.level = .micro) (hwf : i.wf = true) (rest : List Byte) :
    decodeMicro i.opByte (i.operandBytes ++ rest) = .ok (i, rest) := by
  cases i with
  | resetStd | resetOd | rbitStd | rbitOd | rbyteStd | rbyteOd | address => rfl
  | wbyteStd _ | wbyteOd _ => rfl
  | wbitStd b | wbitOd b => cases b <;> rfl
  | triplet p =>
    have hp : p - 1 + 1 = p := BitVec.sub_add_cancel p 1
    show checked _ (.triplet (p - 1 + 1)) rest = _
    rw [hp, checked_of_wf _ hwf]
  | pageWrite addr data =>
    simp [decodeMicro, Instr.opByte, Instr.operandBytes, withHalf_encodeHalf_append, take8_toList_append, checked_of_wf, hwf]
  | memRead _ _ => simp [decodeMicro, Instr.opByte, Instr.operandBytes, withHalf_encodeHalf_append]
  | searchEngine n cmd => exact checked_of_wf _ hwf rest
  | _ => cases hlevel

theorem decodeWireRom_operandBytes {i : Instr} {p : Prof} (hlevel : i.level = .wireRom p) (rest : List Byte) :
    decodeWireRom p i.opByte (i.operandBytes ++ rest) = .ok (i, rest) := by
  cases i with
  | cmdSkipRom | cmdOdSkipRom | cmdMatchRom | cmdOdMatchRom | cmdResume _ | cmdSearchRom =>
    cases hlevel
    rfl
  | _ => cases hlevel

theorem decodeWireFunction_operandBytes {i : Instr} {p : Prof} (hlevel : i.level = .wireFunction p) (rest : List Byte) :
    decodeWireFunction p i.opByte (i.operandBytes ++ rest) = .ok (i, rest) := by
  cases i with
  | cmdWriteScratchpad _ | cmdReadScratchpad _ | cmdCopyScratchpad _ | cmdReadMemory _ =>
    cases hlevel
    rfl
  | _ => cases hlevel

theorem decodeFirst_encode_append {i : Instr} (hwf : i.wf = true) (rest : List Byte) :
    decodeFirst i.level (encode i ++ rest) = .ok (i, rest) := by
  cases hlevel : i.level with
  | host => exact decodeHost_operandBytes hlevel hwf rest
  | micro => exact decodeMicro_operandBytes hlevel hwf rest
  | wireRom _ => exact decodeWireRom_operandBytes hlevel rest
  | wireFunction _ => exact decodeWireFunction_operandBytes hlevel rest

/-! ### Reading nothing but encodings -/

/-- What a decoder answers for a first byte and the bytes after it is sound: if it is an instruction, that instruction is well
formed, stands at the level, and the bytes are its encoding and the bytes left over. -/
def Decoded.Sound (l : Level) (id : Byte) (bytes : List Byte) (d : Decoded) : Prop :=
  ∀ i rest, d = .ok (i, rest) → i.wf = true ∧ i.level = l ∧ id :: bytes = encode i ++ rest

section
variable {l : Level} {id : Byte} {bytes rest : List Byte} {i : Instr}

theorem Decoded.sound_error (e : DecodeError) : Decoded.Sound l id bytes (.error e) := by
  intro i rest h
  cases h

theorem Decoded.sound_ok (hwf : i.wf = true) (hlevel : i.level = l) (hid : id.toNat = i.opByte.toNat)
    (hops : bytes = i.operandBytes ++ rest) : Decoded.Sound l id bytes (.ok (i, rest)) := by
  intro j rest' h
  cases h
  refine ⟨hwf, hlevel, ?_⟩
  rw [encode, List.cons_append, BitVec.eq_of_toNat_eq hid, hops]

theorem sound_checked (hlevel : i.level = l) (hid : id.toNat = i.opByte.toNat) (hops : bytes = i.operandBytes ++ rest) :
    Decoded.Sound l id bytes (checked id i rest) := by
  unfold checked
  split
  · next hwf => exact Decoded.sound_ok hwf hlevel hid hops
  · exact Decoded.sound_error _

theorem sound_with8 {f : Bytes8 → Instr} {ops : List Byte}
    (h : ∀ v rest, ops = v.toList ++ rest → Decoded.Sound l id bytes (.ok (f v, rest))) :
    Decoded.Sound l id bytes (with8 id ops f) := by
  unfold with8
  split
  · next v rest htake => exact h v rest (take8_eq_some_iff.1 htake)
  · exact Decoded.sound_error _

theorem sound_withHalf {f : Half → List Byte → Decoded} {ops : List Byte}
    (h : ∀ a rest, ops = encodeHalf a ++ rest → Decoded.Sound l id bytes (f a rest)) :
    Decoded.Sound l id bytes (withHalf id ops f) := by
  unfold withHalf
  split
  · next a rest htake => exact h a rest (takeHalf_eq_some_iff.1 htake)
  · exact Decoded.sound_error _

theorem sound_withByte {f : Byte → List Byte → Decoded} {ops : List Byte}
    (h : ∀ x rest, ops = x :: rest → Decoded.Sound l id bytes (f x rest)) :
    Decoded.Sound l id bytes (withByte id ops f) := by
  cases ops with
  | nil => exact Decoded.sound_error _
  | cons x rest => exact h x rest rfl

theorem sound_writeData {addr len : Half} {ops : List Byte}
    (h : ∀ data rest, data.length = len.toNat → ops = data ++ rest →
      Decoded.Sound l id bytes (.ok (.write addr data, rest))) :
    Decoded.Sound l id bytes (writeData id addr len ops) := by
  unfold writeData
  split
  · exact Decoded.sound_error _
  · next hlen => exact h _ _ (List.length_take_of_le (Nat.le_of_not_lt hlen)) (List.take_append_drop ..).symm

end

open Decoded

theorem sound_decodeHost (id : Byte) (bytes : List Byte) : Sound .host id bytes (decodeHost id bytes) := by
  unfold decodeHost
  split
  -- no operands
  case h_1 hid | h_2 hid | h_4 hid | h_6 hid | h_7 hid | h_10 hid | h_12 hid => exact sound_ok rfl rfl hid rfl
  -- one byte
  case h_3 hid | h_16 hid => exact sound_withByte fun _ _ hops => sound_ok rfl rfl hid hops
  -- one block
  case h_5 hid | h_11 hid => exact sound_with8 fun _ _ hops => sound_ok rfl rfl hid hops
  -- one 16-bit value
  case h_14 hid => exact sound_withHalf fun _ _ hops => sound_ok rfl rfl hid hops
  -- two 16-bit values
  case h_8 hid | h_15 hid =>
    refine sound_withHalf fun addr _ haddr => sound_withHalf fun len _ hlen => sound_ok rfl rfl hid ?_
    rw [haddr, hlen, ← List.append_assoc]
    rfl
  -- WRITE
  case h_9 hid =>
    refine sound_withHalf fun addr _ haddr => sound_withHalf fun len _ hlen => sound_writeData fun data _ hdata hrest => ?_
    have hwf : wfWriteLength data = true := decide_eq_true (hdata ▸ len.isLt)
    refine sound_ok hwf rfl hid ?_
    rw [haddr, hlen, hrest, Instr.operandBytes, hdata, BitVec.ofNat_toNat, BitVec.setWidth_eq, List.append_assoc,
      List.append_assoc]
  -- WRITE_SCRATCHPAD
  case h_13 hid =>
    refine sound_withHalf fun addr _ haddr => sound_with8 fun data _ hdata => sound_ok rfl rfl hid ?_
    rw [haddr, hdata, ← List.append_assoc]
    rfl
  case h_17 => exact sound_error _

theorem sound_decodeMicro (id : Byte) (bytes : List Byte) : Sound .micro id bytes (decodeMicro id bytes) := by
  unfold decodeMicro
  split
  -- no operands
  case h_1 hid | h_2 hid | h_5 hid | h_6 hid | h_9 hid | h_10 hid | h_12 hid => exact sound_ok rfl rfl hid rfl
  -- one bit
  case h_3 hid | h_4 hid =>
    refine sound_withByte fun x rest hops => ?_
    split
    · next b hb => exact sound_ok rfl rfl hid (by rw [hops, bitOfByte_eq_some_iff.1 hb]; rfl)
    · exact sound_error _
  -- one byte
  case h_7 hid | h_8 hid => exact sound_withByte fun _ _ hops => sound_ok rfl rfl hid hops
  -- TRIPLET
  case h_11 hid =>
    refine sound_withByte fun x rest hops => sound_checked rfl hid ?_
    have hx : x + 1 - 1 = x := BitVec.add_sub_cancel x 1
    rw [hops, Instr.operandBytes, hx]
    rfl
  -- PAGE_WRITE
  case h_13 hid =>
    refine sound_withHalf fun addr _ haddr => ?_
    split
    · next data rest hdata =>
      refine sound_checked rfl hid ?_
      rw [haddr, take8_eq_some_iff.1 hdata, ← List.append_assoc]
      rfl
    · exact sound_error _
  -- MEM_READ
  case h_14 hid =>
    refine sound_withHalf fun addr _ haddr => sound_withHalf fun len _ hlen => sound_ok rfl rfl hid ?_
    rw [haddr, hlen, ← List.append_assoc]
    rfl
  -- SEARCH_ENGINE
  case h_15 hid =>
    refine sound_withByte fun n _ hn => sound_withByte fun cmd _ hcmd => sound_checked rfl hid ?_
    rw [hn, hcmd]
    rfl
  case h_16 => exact sound_error _

theorem sound_decodeWireRom (p : Prof) (id : Byte) (bytes : List Byte) :
    Sound (.wireRom p) id bytes (decodeWireRom p id bytes) := by
  unfold decodeWireRom
  split_ifs with hresume hod hskip hodSkip hmatch hodMatch hsearch
  · exact sound_ok rfl rfl (congrArg _ hresume) rfl
  · exact sound_error _
  all_goals
    obtain rfl : p = .std := by
      cases p with
      | std => rfl
      | od => exact absurd rfl hod
  · exact sound_ok rfl rfl (congrArg _ hskip) rfl
  · exact sound_ok rfl rfl (congrArg _ hodSkip) rfl
  · exact sound_ok rfl rfl (congrArg _ hmatch) rfl
  · exact sound_ok rfl rfl (congrArg _ hodMatch) rfl
  · exact sound_ok rfl rfl (congrArg _ hsearch) rfl
  · exact sound_error _

theorem sound_decodeWireFunction (p : Prof) (id : Byte) (bytes : List Byte) :
    Sound (.wireFunction p) id bytes (decodeWireFunction p id bytes) := by
  unfold decodeWireFunction
  split_ifs with hwrite hread hcopy hmemory
  · exact sound_ok rfl rfl (congrArg _ hwrite) rfl
  · exact sound_ok rfl rfl (congrArg _ hread) rfl
  · exact sound_ok rfl rfl (congrArg _ hcopy) rfl
  · exact sound_ok rfl rfl (congrArg _ hmemory) rfl
  · exact sound_error _

theorem encode_of_decodeFirst {l : Level} {bytes rest : List Byte} {i : Instr} (h : decodeFirst l bytes = .ok (i, rest)) :
    i.wf = true ∧ i.level = l ∧ bytes = encode i ++ rest := by
  cases bytes with
  | nil => cases h
  | cons id bytes =>
    cases l with
    | host => exact sound_decodeHost id bytes i rest h
    | micro => exact sound_decodeMicro id bytes i rest h
    | wireRom p => exact sound_decodeWireRom p id bytes i rest h
    | wireFunction p => exact sound_decodeWireFunction p id bytes i rest h

/-! ### Whole requests -/

theorem decode_eq_ok_iff {l : Level} {bytes : List Byte} {i : Instr} :
    decode l bytes = .ok i ↔ decodeFirst l bytes = .ok (i, []) := by
  unfold decode
  split <;> simp_all

/-- Settles O1: the decoder reads an instruction's own bytes and leaves the ones after them, here none. -/
theorem decodeOfEncodeIsTheInstruction : Obligations.DecodeOfEncodeIsTheInstruction := by
  intro i hwf
  have hfirst := decodeFirst_encode_append hwf []
  rw [List.append_nil] at hfirst
  exact decode_eq_ok_iff.2 hfirst

/-- Settles O2: what the decoder reads is an encoding followed by the bytes left over, here none. -/
theorem encodeOfDecodeIsTheBytes : Obligations.EncodeOfDecodeIsTheBytes := by
  intro l bytes i hdecode
  obtain ⟨hwf, hlevel, hbytes⟩ := encode_of_decodeFirst (decode_eq_ok_iff.1 hdecode)
  rw [List.append_nil] at hbytes
  exact ⟨hwf, hlevel, hbytes.symm⟩

/-- Settles O3: each word is the encoding of the instruction it decodes to. -/
theorem wordsOfTheSpecDecode : Obligations.WordsOfTheSpecDecode := by
  have hdecode := decodeOfEncodeIsTheInstruction
  exact ⟨hdecode .init rfl, hdecode (.setMode 5) rfl, hdecode (.setRom ⟨0x2D, 0x11, 0x22, 0x33, 0x44, 0x55, 0x66, 0x9F⟩) rfl,
    hdecode (.read 0x007F 2) rfl, hdecode (.write 0x0006 [0xA1, 0xB2, 0xC3]) rfl, hdecode (.copyScratchpad 0x0078) rfl,
    hdecode (.searchRom 64) rfl, hdecode .resetStd rfl, hdecode (.wbyteStd 0xCC) rfl, hdecode .cmdSkipRom rfl,
    hdecode (.cmdReadScratchpad .od) rfl, fun p => ⟨hdecode .cmdMatchRom rfl, hdecode (.cmdCopyScratchpad p) rfl,
      hdecode .cmdSearchRom rfl, hdecode (.cmdReadMemory p) rfl⟩⟩

end Sys2Proof
end

section
/-! Requests that are no request of the core (30_encoding.md R111, 60_exceptions.md R377): what a step refuses is what the
decoder does not read as a whole request. -/

namespace Sys2Proof.Machine

theorem opByte_of_level_host {i : Instr} (h : i.level = .host) : 1 ≤ i.opByte.toNat ∧ i.opByte.toNat ≤ 0x10 := by
  cases i with
  | init | deinit | setMode _ | getMode | setRom _ | getRom | romMatch | read _ _ | write _ _ | readConfig
  | writeConfig _ | readScratchpad | writeScratchpad _ _ | copyScratchpad _ | readMemory _ _ | searchRom _ =>
    simp [Instr.opByte]
  | _ => cases h

/-- The bytes after a WRITE's id, address and `len` are as many as `len` says (30_encoding.md R106). -/
theorem length_eq_of_decode_write {a0 a1 n0 n1 : Byte} {data : List Byte} {i : Instr}
    (h : decode .host (0x09 :: a0 :: a1 :: n0 :: n1 :: data) = .ok i) : data.length = n0.toNat + 256 * n1.toNat := by
  have hdata : writeData 0x09 (half a0 a1) (half n0 n1) data = .ok (i, []) := decode_eq_ok_iff.1 h
  rw [← toNat_half]
  unfold writeData at hdata
  split at hdata
  · cases hdata
  · next hlen =>
    obtain ⟨-, hdrop⟩ := Prod.mk.inj (Except.ok.inj hdata)
    exact Nat.le_antisymm (List.drop_eq_nil_iff.1 hdrop) (Nat.le_of_not_lt hlen)

theorem step_refuses_of_not_decoded {s : State} {r : Request} {rest : List Request} (hhalt : s.halt = none)
    (hinbox : s.inbox = r :: rest) (h : ∀ i, decode r.level r.bytes ≠ .ok i) :
    ∃ why, step s = .refused (.illegalRequest why) := by
  cases hdecode : decode r.level r.bytes with
  | error why => exact ⟨why, by simp only [step, hhalt, hinbox, hdecode]⟩
  | ok i => exact absurd hdecode (h i)

/-- Settles O5: bytes that decode encode a host operation, so have an id in the table, and as WRITE's fill its `len`. -/
theorem illegalHostRequestIsRefused : Obligations.IllegalHostRequestIsRefused := by
  intro s r rest hhalt hinbox hlevel
  refine ⟨fun hno => ?_, fun id ops hbytes hid => ?_, fun a0 a1 n0 n1 data hbytes hlength => ?_⟩
  all_goals
    refine step_refuses_of_not_decoded hhalt hinbox fun i hdecode => ?_
    rw [hlevel] at hdecode
  · obtain ⟨hwf, hhost, hencode⟩ := encodeOfDecodeIsTheBytes _ _ i hdecode
    exact hno i hhost hwf hencode
  · obtain ⟨-, hhost, hencode⟩ := encodeOfDecodeIsTheBytes _ _ i hdecode
    obtain ⟨hop, -⟩ := List.cons.inj (hencode.trans hbytes)
    have hrange := opByte_of_level_host hhost
    rw [hop] at hrange
    omega
  · rw [hbytes] at hdecode
    exact hlength (length_eq_of_decode_write hdecode)

end Sys2Proof.Machine
end

section
/-! Micro-operations and command bytes run by themselves, where the scripted answers let them succeed. -/

namespace Sys2Proof.Machine

theorem microUnit_of_run_ok {body : Proc Unit} {s t : State} (h : Proc.run body s = (.ok (), t)) :
    microUnit body s = .next (t.reply microOk) := by
  rw [microUnit, runMicro, Proc.run_bind_ok h]
  rfl

theorem microUnit_writeByte_ok (p : Prof) (x : Byte) {s : State} {as rest : List Answer} (h : s.env = as ++ rest)
    (hf : fits (bytesWritten 1) as = true) :
    microUnit (writeByte p x) s = .next ((s.ran (byteWriteTrace p x) rest).reply microOk) :=
  microUnit_of_run_ok (run_writeByte_ok p x h hf)

/-- Settles O31: each row is one byte operation of its profile and value. -/
theorem commandBytesAreSentAsBytes : Obligations.CommandBytesAreSentAsBytes := by
  intro p i q x hrow s as rest henv hfits
  have hexec : exec i s = microUnit (writeByte q x) s := by
    simp only [List.mem_cons, List.not_mem_nil, or_false, Prod.mk.injEq] at hrow
    obtain ⟨rfl, rfl, rfl⟩ | ⟨rfl, rfl, rfl⟩ | ⟨rfl, rfl, rfl⟩ | ⟨rfl, rfl, rfl⟩ | ⟨rfl, rfl, rfl⟩ | ⟨rfl, rfl, rfl⟩ |
      ⟨rfl, rfl, rfl⟩ | ⟨rfl, rfl, rfl⟩ | ⟨rfl, rfl, rfl⟩ | ⟨rfl, rfl, rfl⟩ := hrow <;> rfl
  rw [hexec]
  exact microUnit_writeByte_ok q x henv hfits

/-- Settles O36: ADDRESS answers the profile its addressing sequence ends with. -/
theorem addressSelectsByMode : Obligations.AddressSelectsByMode := by
  intro s k1 k2 as rest hquiet haddressable henv hfits
  obtain ⟨-, -, -, -, hpolls, -⟩ := hquiet
  show runMicro (addressDevices >>= fun p => pure (.ok (.profile p))) s = _
  rw [runMicro, Proc.run_bind_ok (run_addressDevices_ok hpolls haddressable henv hfits)]
  rfl

end Sys2Proof.Machine
end

section
/-! Single slots run by themselves (40_bit_transport.md R144 to R149): how each call that fails ends one, and what any exit of
one leaves. -/

namespace Sys2Proof.Machine

variable {α β : Type} {s t : State} {a : Answer} {rest : List Answer}

/-! ### A failing call -/

theorem run_busWrite_error {b : Bool} (h : s.env = a :: rest) (hfail : a.status ≠ 0) :
    Proc.run (busWrite b) s = (.error (.err .transport), { s with trace := s.trace ++ [PortEvent.w b], env := rest }) := by
  rw [run_busWrite, if_neg (by rwa [answer_scripted h])]
  simp [State.called, State.emit, State.answered, h]

theorem run_busRead_error (h : s.env = a :: rest) (hfail : a.status ≠ 0) :
    Proc.run busRead s = (.error (.err .transport), { s with trace := s.trace ++ [PortEvent.r], env := rest }) := by
  rw [run_busRead, if_neg (by rwa [answer_scripted h])]
  simp [State.called, State.emit, State.answered, h]

/-- What every slot begins with, where the line is not released: it stays low, and nothing of the slot follows. -/
theorem run_pulse_error (n : Nat) (f : Unit → Proc α) {a1 a2 : Answer} (h : s.env = a1 :: a2 :: rest)
    (h1 : a1.status = 0) (hfail : a2.status ≠ 0) :
    Proc.run (busWrite false >>= fun _ => delayUs n >>= fun _ => busWrite true >>= f) s =
      (.error (.err .transport), { s with
        trace := s.trace ++ ([.w false, .dus n, .w true] : List PortEvent)
        env := rest
        line := some false }) := by
  rw [Proc.run_bind_ok (run_busWrite_ok h h1), Proc.run_bind_ok (run_delayUs _ _),
    Proc.run_bind_error (run_busWrite_error rfl hfail)]
  simp [State.emit]

/-- A read slot whose sample fails: no recovery delay follows (R146). -/
theorem run_readSlot_error_sample (P : Profile) {a1 a2 a3 : Answer} (h : s.env = a1 :: a2 :: a3 :: rest)
    (h1 : a1.status = 0) (h2 : a2.status = 0) (hfail : a3.status ≠ 0) :
    Proc.run (readSlot P) s =
      (.error (.err .transport), { s with
        trace := s.trace ++ ([.w false, .dus P.tRL, .w true, .dus P.tRS, .r] : List PortEvent)
        env := rest
        line := some true }) := by
  rw [readSlot, Proc.run_bind_ok (run_busWrite_ok h h1), Proc.run_bind_ok (run_delayUs _ _),
    Proc.run_bind_ok (run_busWrite_ok rfl h2), Proc.run_bind_ok (run_delayUs _ _),
    Proc.run_bind_error (run_busRead_error rfl hfail)]
  simp [State.emit]

/-! ### A sequence run by itself for its result -/

theorem runMicro_bind_of_run_error {m : Proc α} {f : α → Proc MicroResult} {c : Cause}
    (h : Proc.run m s = (.error (.err c), t)) : runMicro (m >>= f) s = .next (t.reply (.micro (.err c))) := by
  rw [runMicro, Proc.run_bind_error h]
  rfl

theorem runMicro_bind_pure_of_run_ok {m : Proc α} (f : α → MicroResult) {v : α} (h : Proc.run m s = (.ok v, t)) :
    runMicro (m >>= fun v => pure (f v)) s = .next (t.reply (.micro (f v))) := by
  rw [runMicro, Proc.run_bind_ok h]
  rfl

theorem microUnit_of_run_error {body : Proc Unit} {c : Cause} (h : Proc.run body s = (.error (.err c), t)) :
    microUnit body s = .next (t.reply (.micro (.err c))) :=
  runMicro_bind_of_run_error h

/-! ### The bit primitives -/

theorem exec_wbit {p : Prof} {i : Bool → Instr} (hi : p = .std ∧ i = .wbitStd ∨ p = .od ∧ i = .wbitOd) (b : Bool)
    (s : State) : exec (i b) s = microUnit (writeSlot p.timing b) s := by
  obtain ⟨rfl, rfl⟩ | ⟨rfl, rfl⟩ := hi <;> rfl

theorem exec_rbit {p : Prof} {i : Instr} (hi : p = .std ∧ i = .rbitStd ∨ p = .od ∧ i = .rbitOd) (s : State) :
    exec i s = runMicro (readSlot p.timing >>= fun v => pure (.ok (.bit v))) s := by
  obtain ⟨rfl, rfl⟩ | ⟨rfl, rfl⟩ := hi <;> rfl

/-- Settles O24: the write slot, by the first of its two calls that fails. -/
theorem writeBitEmitsItsSlot : Obligations.WriteBitEmitsItsSlot := by
  intro p i hi s b a1 rest henv
  rw [exec_wbit hi]
  refine ⟨fun hfail => microUnit_of_run_error (Proc.run_bind_error (run_busWrite_error henv hfail)), ?_⟩
  rintro h1 a2 rest2 rfl
  refine ⟨fun hfail => ?_, fun h2 => ?_⟩
  · exact microUnit_of_run_error (run_pulse_error _ _ henv h1 hfail)
  · have hfits : fits (slotsWritten 1) [a1, a2] = true := by simp [slotsWritten, fits, h1, h2]
    exact microUnit_of_run_ok (run_writeSlot_ok p.timing b henv hfits)

/-- Settles O25: the read slot, by the first of its three calls that fails. -/
theorem readBitReturnsTheSample : Obligations.ReadBitReturnsTheSample := by
  intro p i hi s a1 rest henv
  rw [exec_rbit hi]
  refine ⟨fun hfail => runMicro_bind_of_run_error (Proc.run_bind_error (run_busWrite_error henv hfail)), ?_⟩
  rintro h1 a2 rest2 rfl
  refine ⟨fun hfail => runMicro_bind_of_run_error (run_pulse_error _ _ henv h1 hfail), ?_⟩
  rintro h2 a3 rest3 rfl
  refine ⟨fun hfail => ?_, fun h3 => ?_⟩
  · exact runMicro_bind_of_run_error (run_readSlot_error_sample p.timing henv h1 h2 hfail)
  · have hfits : fits (slotRead a3.sample) [a1, a2, a3] = true := by simp [slotRead, fits, h1, h2, h3]
    exact runMicro_bind_pure_of_run_ok (fun v => .ok (.bit v)) (run_readSlot_ok p.timing henv hfits)

/-! ### Whatever the environment answers -/

/-- The one way the sequence ends early is `ERR(TRANSPORT)`. -/
def Proc.OnlyTransport (m : Proc α) : Prop := ∀ s e, (Proc.run m s).1 = .error e → e = .err .transport

theorem Proc.onlyTransport_pure (v : α) : Proc.OnlyTransport (pure v : Proc α) := by
  intro s e he
  rw [Proc.run_pure] at he
  cases he

theorem Proc.onlyTransport_bind {m : Proc α} {f : α → Proc β} (hm : Proc.OnlyTransport m)
    (hf : ∀ v, Proc.OnlyTransport (f v)) : Proc.OnlyTransport (m >>= f) := by
  intro s e he
  rcases hr : Proc.run m s with ⟨e' | v, t⟩
  · rw [Proc.run_bind_error hr] at he
    cases he
    exact hm s e (by rw [hr])
  · rw [Proc.run_bind_ok hr] at he
    exact hf v t e he

theorem onlyTransport_delayUs (n : Nat) : Proc.OnlyTransport (delayUs n) := by
  intro s e he
  rw [run_delayUs] at he
  cases he

theorem onlyTransport_busWrite (b : Bool) : Proc.OnlyTransport (busWrite b) := by
  intro s e he
  rw [run_busWrite] at he
  split at he <;> cases he
  rfl

theorem onlyTransport_busRead : Proc.OnlyTransport busRead := by
  intro s e he
  rw [run_busRead] at he
  split at he <;> cases he
  rfl

theorem onlyTransport_writeSlot (P : Profile) (b : Bool) : Proc.OnlyTransport (writeSlot P b) :=
  Proc.onlyTransport_bind (onlyTransport_busWrite _) fun _ => Proc.onlyTransport_bind (onlyTransport_delayUs _) fun _ =>
    Proc.onlyTransport_bind (onlyTransport_busWrite _) fun _ => onlyTransport_delayUs _

theorem onlyTransport_readSlot (P : Profile) : Proc.OnlyTransport (readSlot P) :=
  Proc.onlyTransport_bind (onlyTransport_busWrite _) fun _ => Proc.onlyTransport_bind (onlyTransport_delayUs _) fun _ =>
    Proc.onlyTransport_bind (onlyTransport_busWrite _) fun _ => Proc.onlyTransport_bind (onlyTransport_delayUs _) fun _ =>
      Proc.onlyTransport_bind onlyTransport_busRead fun _ => Proc.onlyTransport_bind (onlyTransport_delayUs _) fun _ =>
        Proc.onlyTransport_pure _

theorem isIrq_eq_false_of_isLineEvent {e : PortEvent} (h : isLineEvent e = true) : e.isIrq = false := by
  cases e with
  | irqOff | irqOn => cases h
  | _ => rfl

/-- The outcome is a next state with CS as it was, with no interrupt event more, and with one reply more, OK or
ERR(TRANSPORT). -/
def LeavesInterruptsAlone (s : State) (o : Host.Outcome State Fault Refusal) : Prop :=
  ∃ (t : State) (evs : List PortEvent), o = .next t ∧ t.trace = s.trace ++ evs ∧ t.cs = s.cs ∧
    (∀ e ∈ evs, e.isIrq = false) ∧
    ((∃ v, t.replies = s.replies ++ [.micro (.ok v)]) ∨ t.replies = s.replies ++ [.micro (.err .transport)])

/-- A sequence of line events that fails with TRANSPORT only and touches no replies, run by itself for a value. -/
theorem leavesInterruptsAlone_runMicro {n : Nat} {m : Proc α} (hlines : Proc.Lines n m) (hframed : Proc.Framed m)
    (honly : Proc.OnlyTransport m) (f : α → MicroValue) (s : State) :
    LeavesInterruptsAlone s (runMicro (m >>= fun v => pure (.ok (f v))) s) := by
  obtain ⟨hcs, -, -, evs, htrace, -, hevs⟩ := hlines s
  have hreplies := (hframed s).replies
  have hirq : ∀ e ∈ evs, e.isIrq = false := fun e he => isIrq_eq_false_of_isLineEvent (hevs e he)
  rcases hr : Proc.run m s with ⟨e | v, t⟩ <;> rw [hr] at hcs htrace hreplies
  · obtain rfl := honly s e (by rw [hr])
    refine ⟨_, evs, runMicro_bind_of_run_error hr, htrace, hcs, hirq, .inr ?_⟩
    rw [State.reply_replies, hreplies]
  · refine ⟨_, evs, runMicro_bind_pure_of_run_ok (fun v => .ok (f v)) hr, htrace, hcs, hirq, .inl ⟨f v, ?_⟩⟩
    rw [State.reply_replies, hreplies]

theorem leavesInterruptsAlone_writeSlot (P : Profile) (b : Bool) (s : State) :
    LeavesInterruptsAlone s (microUnit (writeSlot P b) s) :=
  leavesInterruptsAlone_runMicro (lines_writeSlot P b) (framed_writeSlot P b) (onlyTransport_writeSlot P b)
    (fun _ => .unit) s

theorem leavesInterruptsAlone_readSlot (P : Profile) (s : State) :
    LeavesInterruptsAlone s (runMicro (readSlot P >>= fun v => pure (.ok (.bit v))) s) :=
  leavesInterruptsAlone_runMicro (lines_readSlot P) (framed_readSlot P) (onlyTransport_readSlot P) .bit s

/-- Settles O26: each of the four runs one slot. -/
theorem bitPrimitivesLeaveInterruptsAlone : Obligations.BitPrimitivesLeaveInterruptsAlone := by
  rintro i s (rfl | rfl | ⟨b, rfl | rfl⟩)
  · exact leavesInterruptsAlone_readSlot (Prof.timing .std) s
  · exact leavesInterruptsAlone_readSlot (Prof.timing .od) s
  · exact leavesInterruptsAlone_writeSlot (Prof.timing .std) b s
  · exact leavesInterruptsAlone_writeSlot (Prof.timing .od) b s

end Sys2Proof.Machine
end

section
/-! Byte operations run by themselves (41_byte_transport.md R170 to R175): the bytes of a script that succeeds, how a slot that
fails ends one, and the one critical section of every path. -/

namespace Sys2Proof.Machine

variable {α β : Type} {s t : State} {a : Answer} {as rest : List Answer}

/-! ### The instructions as byte operations -/

theorem exec_wbyte {p : Prof} {i : Byte → Instr} (hi : p = .std ∧ i = .wbyteStd ∨ p = .od ∧ i = .wbyteOd) (x : Byte)
    (s : State) : exec (i x) s = microUnit (writeByte p x) s := by
  obtain ⟨rfl, rfl⟩ | ⟨rfl, rfl⟩ := hi <;> rfl

theorem exec_rbyte {p : Prof} {i : Instr} (hi : p = .std ∧ i = .rbyteStd ∨ p = .od ∧ i = .rbyteOd) (s : State) :
    exec i s = runMicro (readByte p >>= fun x => pure (.ok (.byte x))) s := by
  obtain ⟨rfl, rfl⟩ | ⟨rfl, rfl⟩ := hi <;> rfl

theorem exec_wireCommand {i : Instr} {p : Prof} (h : i.level = .wireRom p ∨ i.level = .wireFunction p) :
    ∃ q x, ∀ s, exec i s = microUnit (writeByte q x) s := by
  cases i with
  | cmdSkipRom | cmdOdSkipRom | cmdMatchRom | cmdOdMatchRom | cmdResume | cmdSearchRom | cmdWriteScratchpad
  | cmdReadScratchpad | cmdCopyScratchpad | cmdReadMemory => exact ⟨_, _, fun _ => rfl⟩
  | _ => obtain h | h := h <;> cases h

/-! ### Every call succeeds -/

/-- Settles O27: the byte is the one sequence of the instruction. -/
theorem writeByteSendsLsbFirst : Obligations.WriteByteSendsLsbFirst := by
  intro p i hi s x as rest henv hfits
  rw [exec_wbyte hi]
  exact microUnit_writeByte_ok p x henv hfits

/-- Settles O29: eight samples assemble their byte, and the shift register is absent again. -/
theorem readByteAssemblesLsbFirst : Obligations.ReadByteAssemblesLsbFirst := by
  intro p i hi s x as rest hacc henv hfits
  rw [exec_rbyte hi]
  exact runMicro_bind_pure_of_run_ok (fun x => .ok (.byte x)) (run_readByte_keep p hacc henv hfits)

/-! ### A slot fails after the slots before it succeeded -/

/-- The state after `n` slots, which may be none: events emitted, answers used up, the line released if there was a slot. -/
def State.slotsPassed (s : State) (n : Nat) (evs : List PortEvent) (rest : List Answer) : State :=
  { s with trace := s.trace ++ evs, env := rest, line := if n = 0 then s.line else some true }

theorem slotsPassed_zero (h : s.env = rest) : s.slotsPassed 0 [] rest = s := by
  subst h
  simp [State.slotsPassed]

theorem run_writeSlots_passed (P : Profile) (bs : List Bool) (h : s.env = as ++ rest)
    (hf : fits (slotsWritten bs.length) as = true) :
    Proc.run (writeSlots P bs) s = (.ok (), s.slotsPassed bs.length (bs.flatMap (writeSlotTrace P)) rest) := by
  cases bs with
  | nil =>
    obtain rfl := (fits_nil as).1 hf
    exact congrArg (Except.ok (), ·) (slotsPassed_zero h).symm
  | cons b bs => exact run_writeSlots_ok P b bs h hf

theorem flatMap_range_length (vs : List Bool) (evs : List PortEvent) :
    (List.range vs.length).flatMap (fun _ => evs) = vs.flatMap fun _ => evs := by
  simp [List.flatMap_def]

theorem run_readSlots_passed (P : Profile) (vs : List Bool) {r : Byte} (hacc : s.acc = some r) (h : s.env = as ++ rest)
    (hf : fits (vs.flatMap slotRead) as = true) :
    Proc.run (readSlots P vs.length) s = (.ok (), ({ s with acc := some (shifted r vs) } : State).slotsPassed vs.length
      (vs.flatMap fun _ => readSlotTrace P) rest) := by
  cases vs with
  | nil =>
    obtain rfl := (fits_nil as).1 hf
    have hsame : ({ s with acc := some r } : State) = s := by rw [← hacc]
    exact congrArg (Except.ok (), ·) ((slotsPassed_zero (s := { s with acc := some r }) h).trans hsame).symm
  | cons v vs =>
    rw [← flatMap_range_length, List.length_cons, run_readSlots_ok P v vs h hf, State.accValue, hacc]
    rfl

theorem writeSlots_append (P : Profile) (bs cs : List Bool) :
    writeSlots P (bs ++ cs) = writeSlots P bs >>= fun _ => writeSlots P cs := by
  induction bs with
  | nil => exact (pure_bind (m := Proc) () fun _ => writeSlots P cs).symm
  | cons b bs ih => simp only [List.cons_append, writeSlots, ih, bind_assoc]

theorem readSlots_add (P : Profile) (m n : Nat) :
    readSlots P (m + n) = readSlots P m >>= fun _ => readSlots P n := by
  induction m with
  | zero =>
    rw [Nat.zero_add]
    exact (pure_bind (m := Proc) () fun _ => readSlots P n).symm
  | succ m ih => simp only [Nat.succ_add, readSlots, ih, bind_assoc]

theorem lsbFirst_split (x : Byte) {n : Nat} (hn : n < 8) :
    lsbFirst x = (lsbFirst x).take n ++ x.getLsbD n :: (lsbFirst x).drop (n + 1) := by
  have hlt : n < (lsbFirst x).length := hn
  have hget : (lsbFirst x)[n] = x.getLsbD n := by simp [lsbFirst]
  rw [← hget, ← List.drop_eq_getElem_cons hlt, List.take_append_drop]

/-- From answers `env`, the sequence fails with TRANSPORT when `rest` is left, after the events `evs` and with LINE as `latch`
makes it of what it was. -/
def Proc.FailsAfter (m : Proc α) (env rest : List Answer) (evs : List PortEvent) (latch : Option Bool → Option Bool) : Prop :=
  ∀ s : State, s.env = env → Proc.run m s =
    (.error (.err .transport), { s with trace := s.trace ++ evs, env := rest, line := latch s.line })

theorem Proc.FailsAfter.bind {m : Proc α} {env : List Answer} {evs : List PortEvent} {latch : Option Bool → Option Bool}
    (h : Proc.FailsAfter m env rest evs latch) (f : α → Proc β) : Proc.FailsAfter (m >>= f) env rest evs latch :=
  fun s hs => Proc.run_bind_error (h s hs)

theorem failsAfter_busWrite (b : Bool) (hfail : a.status ≠ 0) :
    Proc.FailsAfter (busWrite b) (a :: rest) rest [.w b] id :=
  fun _ h => run_busWrite_error h hfail

/-- The first write of a slot succeeds and the second fails: the line stays low. -/
theorem failsAfter_pulse (n : Nat) (f : Unit → Proc α) {a0 : Answer} (h0 : a0.status = 0) (hfail : a.status ≠ 0) :
    Proc.FailsAfter (busWrite false >>= fun _ => delayUs n >>= fun _ => busWrite true >>= f) (a0 :: a :: rest) rest
      [.w false, .dus n, .w true] fun _ => some false :=
  fun _ h => run_pulse_error n f h h0 hfail

theorem failsAfter_readSlot_sample (P : Profile) {a0 a1 : Answer} (h0 : a0.status = 0) (h1 : a1.status = 0)
    (hfail : a.status ≠ 0) :
    Proc.FailsAfter (readSlot P) (a0 :: a1 :: a :: rest) rest [.w false, .dus P.tRL, .w true, .dus P.tRS, .r]
      fun _ => some true :=
  fun _ h => run_readSlot_error_sample P h h0 h1 hfail

/-- After slots that passed, in a section, a part that fails: the section is closed on what that part left. -/
theorem run_critical_failsAfter {before : Proc Unit} {m : Proc α} {n : Nat} {mid : List Answer} {slots evs : List PortEvent}
    {latch : Option Bool → Option Bool} (hbefore : Proc.run before s.irqOff = (.ok (), t.irqOff.slotsPassed n slots mid))
    (hm : Proc.FailsAfter m mid rest evs latch) :
    Proc.run (critical (before >>= fun _ => m)) s = (.error (.err .transport), { t with
      trace := t.trace ++ (PortEvent.irqOff :: (slots ++ (evs ++ [PortEvent.irqOn])))
      env := rest
      line := latch (if n = 0 then t.line else some true)
      cs := false }) := by
  rw [run_critical, Proc.run_bind_ok hbefore, hm _ rfl]
  simp [State.slotsPassed, State.irqOff, State.irqOn, State.emit]

/-- A sent byte whose slot `n` fails. -/
theorem run_writeByte_error (p : Prof) (x : Byte) {n : Nat} {mid : List Answer} {evs : List PortEvent}
    {latch : Option Bool → Option Bool} (hn : n < 8) (hf : fits (slotsWritten n) as = true) (h : s.env = as ++ mid)
    (hslot : Proc.FailsAfter (writeSlot p.timing (x.getLsbD n)) mid rest evs latch) :
    Proc.run (writeByte p x) s = (.error (.err .transport), { s with
      trace := s.trace ++ (PortEvent.irqOff ::
        (((lsbFirst x).take n).flatMap (writeSlotTrace p.timing) ++ (evs ++ [PortEvent.irqOn])))
      env := rest
      line := latch (if n = 0 then s.line else some true)
      cs := false }) := by
  have hslots : writeSlots p.timing (wireBits x) = writeSlots p.timing ((lsbFirst x).take n) >>= fun _ =>
      writeSlots p.timing (x.getLsbD n :: (lsbFirst x).drop (n + 1)) := by
    rw [← writeSlots_append, ← lsbFirst_split x hn, wireBits_eq]
  have hlen : ((lsbFirst x).take n).length = n := List.length_take_of_le hn.le
  have hbefore := run_writeSlots_passed p.timing ((lsbFirst x).take n) (s := s.irqOff) h (by rwa [hlen])
  rw [hlen] at hbefore
  rw [writeByte, hslots]
  exact run_critical_failsAfter hbefore (hslot.bind _)

/-- A received byte whose slot after the samples `vs` fails: the shift register that holds them is discarded. -/
theorem run_readByte_error (p : Prof) (vs : List Bool) {mid : List Answer} {evs : List PortEvent}
    {latch : Option Bool → Option Bool} (hn : vs.length < 8) (hf : fits (vs.flatMap slotRead) as = true)
    (h : s.env = as ++ mid) (hslot : Proc.FailsAfter (readSlot p.timing) mid rest evs latch) :
    Proc.run (readByte p) s = (.error (.err .transport), { s with
      trace := s.trace ++ (PortEvent.irqOff ::
        (vs.flatMap (fun _ => readSlotTrace p.timing) ++ (evs ++ [PortEvent.irqOn])))
      env := rest
      line := latch (if vs = [] then s.line else some true)
      cs := false
      acc := none }) := by
  have hslots : readSlots p.timing 8 =
      readSlots p.timing vs.length >>= fun _ => readSlots p.timing (7 - vs.length + 1) := by
    rw [← readSlots_add]
    congr 1
    omega
  have hbefore := run_readSlots_passed p.timing vs (s := ({ s with acc := some 0 } : State).irqOff) rfl h hf
  have hafter : Proc.FailsAfter (readSlots p.timing (7 - vs.length + 1)) mid rest evs latch := hslot.bind _
  have hsection := run_critical_failsAfter (t := { s with acc := some (shifted 0 vs) }) hbefore hafter
  rw [readByte, run_withAcc, hslots, Proc.run_bind_error hsection]
  simp only [List.length_eq_zero_iff]

/-- Settles O28: by the call of the slot that fails. -/
theorem byteOperationsStopAtTheFirstFailure : Obligations.ByteOperationsStopAtTheFirstFailure := by
  refine ⟨fun p i hi s x n as a rest hn hfits hfail => ?_, fun p i hi s vs as a rest hn hfits hfail slots hslots => ?_⟩
  · rw [exec_wbyte hi]
    refine ⟨fun henv => ?_, fun a0 h0 henv => ?_⟩
    · exact microUnit_of_run_error (run_writeByte_error p x hn hfits henv ((failsAfter_busWrite false hfail).bind _))
    · exact microUnit_of_run_error (run_writeByte_error p x hn hfits henv (failsAfter_pulse _ _ h0 hfail))
  · subst hslots
    rw [exec_rbyte hi]
    refine ⟨fun henv => ?_, fun a0 h0 henv => ?_, fun a0 a1 h0 h1 henv => ?_⟩
    · exact runMicro_bind_of_run_error
        (run_readByte_error p vs hn hfits henv ((failsAfter_busWrite false hfail).bind _))
    · exact runMicro_bind_of_run_error (run_readByte_error p vs hn hfits henv (failsAfter_pulse _ _ h0 hfail))
    · exact runMicro_bind_of_run_error
        (run_readByte_error p vs hn hfits henv (failsAfter_readSlot_sample p.timing h0 h1 hfail))

/-! ### Whatever the environment answers -/

/-- A micro-operation ends with its reply or a recorded stop, and emits nothing. -/
theorem microEnd_trace_cs (r : Except Stop MicroResult × State) :
    (microEnd r).trace = r.2.trace ∧ (microEnd r).cs = r.2.cs := by
  rcases r with ⟨(_ | _) | _, _⟩ <;> exact ⟨rfl, rfl⟩

theorem run_bind_pure_state (m : Proc α) (f : α → β) (s : State) :
    (Proc.run (m >>= fun v => pure (f v)) s).2 = (Proc.run m s).2 := by
  rw [Proc.run_bind]
  rcases Proc.run m s with ⟨_ | _, _⟩ <;> rfl

/-- The outcome is a next state after exactly one critical section. -/
def IsOneCriticalSection (s : State) (o : Host.Outcome State Fault Refusal) : Prop :=
  ∃ (t : State) (mid : List PortEvent), o = .next t ∧
    t.trace = s.trace ++ (PortEvent.irqOff :: (mid ++ [PortEvent.irqOn])) ∧ (∀ e ∈ mid, e.isIrq = false) ∧ t.cs = false

theorem isOneCriticalSection_runMicro {n : Nat} {m : Proc α} (f : α → MicroResult)
    (h : OneSection n s (Proc.run m s).2) : IsOneCriticalSection s (runMicro (m >>= fun v => pure (f v)) s) := by
  obtain ⟨hcs, -, -, mid, htrace, -, hmid⟩ := h
  obtain ⟨hendTrace, hendCs⟩ := microEnd_trace_cs (Proc.run (m >>= fun v => pure (f v)) s)
  rw [run_bind_pure_state] at hendTrace hendCs
  exact ⟨_, mid, rfl, hendTrace.trans htrace, fun e he => isIrq_eq_false_of_isLineEvent (hmid e he), hendCs.trans hcs⟩

theorem isOneCriticalSection_writeByte (p : Prof) (x : Byte) (s : State) :
    IsOneCriticalSection s (microUnit (writeByte p x) s) :=
  isOneCriticalSection_runMicro (fun _ => .ok .unit) (oneSection_writeByte p x s)

theorem isOneCriticalSection_readByte (p : Prof) (s : State) :
    IsOneCriticalSection s (runMicro (readByte p >>= fun x => pure (.ok (.byte x))) s) :=
  isOneCriticalSection_runMicro (fun x => .ok (.byte x)) (oneSection_readByte p s).1

/-- Settles O30: each of them runs one byte operation. -/
theorem everyByteIsOneCriticalSection : Obligations.EveryByteIsOneCriticalSection := by
  rintro i s (rfl | rfl | ⟨x, rfl | rfl⟩ | ⟨p, hlevel⟩)
  · exact isOneCriticalSection_readByte .std s
  · exact isOneCriticalSection_readByte .od s
  · exact isOneCriticalSection_writeByte .std x s
  · exact isOneCriticalSection_writeByte .od x s
  · obtain ⟨q, x, hexec⟩ := exec_wireCommand hlevel
    rw [hexec]
    exact isOneCriticalSection_writeByte q x s

end Sys2Proof.Machine
end

section
/-! The bus reset (42_reset_presence.md R190 to R197): what its two phases emit by how their polls end, the call that fails in
a reset, and all its ends. -/

namespace Sys2Proof.Machine

variable {α β : Type} {s : State} {a : Answer} {as mid rest : List Answer} {r : Except Stop Unit}
  {evs evs' : List PortEvent}

theorem exec_reset {p : Prof} {i : Instr} (hi : p = .std ∧ i = .resetStd ∨ p = .od ∧ i = .resetOd) (s : State) :
    exec i s = microUnit (busReset p) s := by
  obtain ⟨rfl, rfl⟩ | ⟨rfl, rfl⟩ := hi <;> rfl

/-- Settles O32: the two phases end within their budgets, so the reset's one section succeeds. -/
theorem resetDetectsPresenceWithinItsBudget : Obligations.ResetDetectsPresenceWithinItsBudget := by
  intro p i hi s k1 k2 as rest hpolls hk henv hfits
  rw [exec_reset hi]
  exact microUnit_of_run_ok (run_busReset_ok p hpolls hk henv hfits)

/-! ### The polls of a phase -/

/-- The events of `k` polls, each the sample and its delay (R190). -/
def pollsTrace (P : Profile) (k : Nat) : List PortEvent := (List.range k).flatMap fun _ => [.r, .dus P.tPOLL]

theorem pollsTrace_add (P : Profile) (m n : Nat) : pollsTrace P (m + n) = pollsTrace P m ++ pollsTrace P n := by
  simp [pollsTrace, List.range_add, List.flatMap_append, List.flatMap_map]

/-- The state after `n` polls inside a phase. -/
def State.polled (s : State) (P : Profile) (n : Nat) (rest : List Answer) : State :=
  { s with trace := s.trace ++ pollsTrace P n, env := rest, polls := some (s.pollCount + n) }

theorem polled_polled (s : State) (P : Profile) (m n : Nat) (mid rest : List Answer) :
    (s.polled P m mid).polled P n rest = s.polled P (m + n) rest := by
  simp [State.polled, State.pollCount, pollsTrace_add, Nat.add_assoc]

theorem polled_zero {P : Profile} {c : Nat} (hc : s.polls = some c) (h : s.env = rest) : s.polled P 0 rest = s := by
  subst h
  cases s
  simp_all [State.polled, State.pollCount, pollsTrace]

/-- A poll that does not match: sampled, counted and delayed; then the phase goes on, or its budget is used up (R190). -/
theorem run_pollLoop_of_ne (P : Profile) {want : Bool} (budget fuel : Nat) (h : s.env = a :: rest) (h0 : a.status = 0)
    (hne : some (!want) = some a.sample) :
    Proc.run (pollLoop P want budget (fuel + 1)) s =
      if s.pollCount + 1 < budget then Proc.run (pollLoop P want budget fuel) (s.polled P 1 rest)
      else (.error (.err .noPresence), s.polled P 1 rest) := by
  have hsample : a.sample ≠ want := by
    rw [← Option.some.inj hne]
    exact Bool.not_ne_self want
  have hstate : ({ s with trace := s.trace ++ [PortEvent.r], env := rest, polls := some (s.pollCount + 1) } : State).emit
      (.dus P.tPOLL) = s.polled P 1 rest := by
    simp [State.polled, State.emit, pollsTrace]
  rw [pollLoop, Proc.run_bind_ok (run_busRead_ok h h0), countPoll, Proc.run_bind_ok (Proc.run_update _ _),
    Proc.run_bind_ok (run_delayUs _ _), Proc.run_bind_ok (Proc.run_look _ _), if_neg hsample, ← hstate]
  by_cases hbudget : s.pollCount + 1 < budget
  · rw [if_pos hbudget]
    exact congrArg (Proc.run · _) (if_pos hbudget)
  · rw [if_neg hbudget]
    exact congrArg (Proc.run · _) (if_neg hbudget)

/-- Polls that do not match, short of the budget: the phase goes on after them. -/
theorem run_pollLoop_passed (P : Profile) (want : Bool) (budget fuel n : Nat) {c : Nat} (hc : s.polls = some c)
    (hbudget : c + n < budget) (h : s.env = as ++ rest) (hf : fits (List.replicate n (some (!want))) as = true) :
    Proc.run (pollLoop P want budget (n + fuel)) s = Proc.run (pollLoop P want budget fuel) (s.polled P n rest) := by
  induction n generalizing s as c with
  | zero =>
    obtain rfl := (fits_nil as).1 hf
    rw [Nat.zero_add, polled_zero hc (by exact h)]
  | succ n ih =>
    obtain ⟨a, as, rfl, h0, hsample, hf⟩ := (fits_cons ..).1 hf
    have hcount : s.pollCount = c := by rw [State.pollCount, hc]; rfl
    have hgo := run_pollLoop_of_ne P budget (n + fuel) h h0 (hsample.resolve_left nofun)
    rw [if_pos (by omega)] at hgo
    rw [Nat.succ_add, hgo, Nat.add_comm n 1, ← polled_polled s P 1 n (as ++ rest) rest]
    exact ih (c := c + 1) (congrArg (fun k => some (k + 1)) hcount) (by omega) rfl hf

/-! ### A phase, by how it ends -/

/-- The state after polls: their events emitted and their answers used up. -/
def State.pollsRan (s : State) (evs : List PortEvent) (rest : List Answer) : State :=
  { s with trace := s.trace ++ evs, env := rest }

/-- From answers `env` and without a poll counter, the sequence ends with `r` when `rest` is left, after the events `evs`, and
changes nothing else. -/
def Proc.Polls (m : Proc Unit) (env rest : List Answer) (r : Except Stop Unit) (evs : List PortEvent) : Prop :=
  ∀ s : State, s.polls = none → s.env = env → Proc.run m s = (r, s.pollsRan evs rest)

theorem Proc.Polls.bind {m n : Proc Unit} (hm : Proc.Polls m as mid (.ok ()) evs) (hn : Proc.Polls n mid rest r evs') :
    Proc.Polls (m >>= fun _ => n) as rest r (evs ++ evs') := by
  intro s hpolls henv
  rw [Proc.run_bind_ok (hm s hpolls henv), hn (s.pollsRan evs mid) hpolls rfl]
  simp [State.pollsRan]

theorem Proc.Polls.bind_error {m : Proc Unit} {e : Stop} (hm : Proc.Polls m as rest (.error e) evs) (f : Unit → Proc Unit) :
    Proc.Polls (m >>= f) as rest (.error e) evs :=
  fun s hpolls henv => Proc.run_bind_error (hm s hpolls henv)

/-- A phase in which `n` polls, short of its budget, do not match, and that ends in what follows them. -/
theorem polls_pollPhase_of_passed (P : Profile) (want : Bool) (n fuel : Nat)
    (hf : fits (List.replicate n (some (!want))) as = true)
    (hend : ∀ s : State, s.pollCount = n → s.env = mid → ∃ c, Proc.run (pollLoop P want (n + (fuel + 1)) (fuel + 1)) s =
      (r, { s.pollsRan evs rest with polls := c })) :
    Proc.Polls (pollPhase P want (n + (fuel + 1))) (as ++ mid) rest r (pollsTrace P n ++ evs) := by
  intro s hpolls henv
  obtain ⟨c, hc⟩ := hend (({ s with polls := some 0 } : State).polled P n mid) (Nat.zero_add n) rfl
  rw [← run_pollLoop_passed P want _ (fuel + 1) n (s := { s with polls := some 0 }) rfl (by omega) henv hf] at hc
  rw [pollPhase, run_withPolls, hc]
  simp [State.polled, State.pollsRan, hpolls]

/-- A phase whose polls never match uses up its budget (R190, R193). -/
theorem polls_pollPhase_noPresence (P : Profile) (want : Bool) {budget : Nat} (hbudget : 1 ≤ budget)
    (hf : fits (List.replicate budget (some (!want))) as = true) :
    Proc.Polls (pollPhase P want budget) (as ++ rest) rest (.error (.err .noPresence)) (pollsTrace P budget) := by
  obtain ⟨n, rfl⟩ : ∃ n, budget = n + 1 := ⟨budget - 1, by omega⟩
  rw [List.replicate_succ', fits_append] at hf
  obtain ⟨as, last, rfl, hf, hlast⟩ := hf
  obtain ⟨a, _, rfl, h0, hsample, hnil⟩ := (fits_cons ..).1 hlast
  obtain rfl := (fits_nil _).1 hnil
  rw [List.append_assoc, pollsTrace_add]
  refine polls_pollPhase_of_passed P want n 0 hf fun s hcount henv => ⟨some (s.pollCount + 1), ?_⟩
  rw [run_pollLoop_of_ne P _ 0 henv h0 (hsample.resolve_left nofun), if_neg (by omega)]
  rfl

/-- A phase whose sample after `n` that do not match fails: no delay follows it. -/
theorem polls_pollPhase_transport (P : Profile) (want : Bool) {budget n : Nat} (hn : n < budget)
    (hf : fits (List.replicate n (some (!want))) as = true) (hfail : a.status ≠ 0) :
    Proc.Polls (pollPhase P want budget) (as ++ a :: rest) rest (.error (.err .transport)) (pollsTrace P n ++ [.r]) := by
  obtain ⟨fuel, rfl⟩ : ∃ fuel, budget = n + (fuel + 1) := ⟨budget - n - 1, by omega⟩
  refine polls_pollPhase_of_passed P want n fuel hf fun s _ henv => ⟨s.polls, ?_⟩
  rw [pollLoop, Proc.run_bind_error (run_busRead_error henv hfail)]
  rfl

/-- The samples of a phase whose `k`-th is the first to match. -/
def phaseSamples (want : Bool) (k : Nat) : List Wanted := List.replicate (k - 1) (some (!want)) ++ [some want]

theorem polls_pollPhase_ok (P : Profile) (want : Bool) {budget k : Nat} (hk : 1 ≤ k) (hbudget : k ≤ budget)
    (hf : fits (phaseSamples want k) as = true) :
    Proc.Polls (pollPhase P want budget) (as ++ rest) rest (.ok ()) (pollsTrace P k) :=
  fun _ hpolls henv => run_pollPhase_ok P want budget k hk hbudget hpolls henv hf

/-! ### The whole reset -/

/-- The two phases of a reset. -/
def resetPolls (p : Prof) : Proc Unit := do
  pollPhase p.timing false p.timing.nPDL
  pollPhase p.timing true p.timing.nPDH

/-- A reset is its pulse and its two phases, in one section (R190). -/
theorem busReset_eq (p : Prof) : busReset p = critical (busWrite false >>= fun _ => delayUs p.timing.tRSTL >>= fun _ =>
    busWrite true >>= fun _ => delayUs p.timing.tRSTH >>= fun _ => resetPolls p) := rfl

/-- The pulse of a reset, the line events before its first poll. -/
def resetPulseTrace (p : Prof) : List PortEvent := [.w false, .dus p.timing.tRSTL, .w true, .dus p.timing.tRSTH]

theorem resetTrace_eq (p : Prof) (k : Nat) :
    resetTrace p k = .irqOff :: (resetPulseTrace p ++ pollsTrace p.timing k ++ [.irqOn]) := rfl

theorem run_resetPulse_ok (p : Prof) (f : Unit → Proc α) {w1 w2 : Answer} (h : s.env = w1 :: w2 :: rest)
    (h1 : w1.status = 0) (h2 : w2.status = 0) :
    Proc.run (busWrite false >>= fun _ => delayUs p.timing.tRSTL >>= fun _ => busWrite true >>= fun _ =>
      delayUs p.timing.tRSTH >>= f) s = Proc.run (f ()) (s.slotsRan (resetPulseTrace p) rest) := by
  rw [Proc.run_bind_ok (run_busWrite_ok h h1), Proc.run_bind_ok (run_delayUs _ _),
    Proc.run_bind_ok (run_busWrite_ok rfl h2), Proc.run_bind_ok (run_delayUs _ _)]
  simp [State.slotsRan, State.emit, resetPulseTrace]

/-- A reset whose pulse succeeds ends as its phases do. -/
theorem run_busReset_of_polls {p : Prof} {w1 w2 : Answer} (hp : Proc.Polls (resetPolls p) as rest r evs)
    (hpolls : s.polls = none) (h : s.env = w1 :: w2 :: as) (h1 : w1.status = 0) (h2 : w2.status = 0) :
    Proc.run (busReset p) s = (r, s.ran (.irqOff :: (resetPulseTrace p ++ evs ++ [.irqOn])) rest) := by
  have hbody := run_resetPulse_ok p (fun _ => resetPolls p) (s := s.irqOff) h h1 h2
  rw [hp (s.irqOff.slotsRan (resetPulseTrace p) as) hpolls rfl] at hbody
  rw [busReset_eq, run_critical, hbody]
  simp [State.ran, State.pollsRan, State.slotsRan, State.irqOff, State.irqOn, State.emit]

/-! ### No presence -/

theorem nPDL_pos (p : Prof) : 1 ≤ p.timing.nPDL := by cases p <;> decide

theorem nPDH_pos (p : Prof) : 1 ≤ p.timing.nPDH := by cases p <;> decide

/-- The calls of a reset: the two writes, then the samples of the two phases. -/
theorem resetPresent_eq (k1 k2 : Nat) :
    resetPresent k1 k2 = none :: none :: (phaseSamples false k1 ++ phaseSamples true k2) := by
  simp [resetPresent, phaseSamples]

theorem exec_reset_noPresence_phase1 {p : Prof} {i : Instr} (hi : p = .std ∧ i = .resetStd ∨ p = .od ∧ i = .resetOd)
    (hpolls : s.polls = none) (h : s.env = as ++ rest)
    (hf : fits (([none, none] : List Wanted) ++ List.replicate p.timing.nPDL (some true)) as = true) :
    exec i s = .next ((s.ran (resetTrace p p.timing.nPDL) rest).reply (.micro (.err .noPresence))) := by
  obtain ⟨w1, _, rfl, h1, -, hf⟩ := (fits_cons ..).1 hf
  obtain ⟨w2, as, rfl, h2, -, hf⟩ := (fits_cons ..).1 hf
  have hphase : Proc.Polls (resetPolls p) (as ++ rest) rest (.error (.err .noPresence)) (pollsTrace p.timing p.timing.nPDL) :=
    (polls_pollPhase_noPresence p.timing false (nPDL_pos p) hf).bind_error _
  rw [exec_reset hi, resetTrace_eq]
  exact microUnit_of_run_error (run_busReset_of_polls hphase hpolls h h1 h2)

theorem exec_reset_noPresence_phase2 {p : Prof} {i : Instr} (hi : p = .std ∧ i = .resetStd ∨ p = .od ∧ i = .resetOd)
    {k1 : Nat} (hk : 1 ≤ k1) (hbudget : k1 ≤ p.timing.nPDL) (hpolls : s.polls = none) (h : s.env = as ++ rest)
    (hf : fits (([none, none] : List Wanted) ++ List.replicate (k1 - 1) (some true) ++ [some false]
      ++ List.replicate p.timing.nPDH (some false)) as = true) :
    exec i s = .next ((s.ran (resetTrace p (k1 + p.timing.nPDH)) rest).reply (.micro (.err .noPresence))) := by
  have hf : fits (none :: none :: (phaseSamples false k1 ++ List.replicate p.timing.nPDH (some false))) as = true := by
    simpa [phaseSamples] using hf
  obtain ⟨w1, _, rfl, h1, -, hf⟩ := (fits_cons ..).1 hf
  obtain ⟨w2, _, rfl, h2, -, hf⟩ := (fits_cons ..).1 hf
  obtain ⟨as1, as2, rfl, hf1, hf2⟩ := (fits_append ..).1 hf
  have hphases : Proc.Polls (resetPolls p) (as1 ++ (as2 ++ rest)) rest (.error (.err .noPresence))
      (pollsTrace p.timing (k1 + p.timing.nPDH)) := by
    rw [pollsTrace_add]
    exact (polls_pollPhase_ok p.timing false hk hbudget hf1).bind (polls_pollPhase_noPresence p.timing true (nPDH_pos p) hf2)
  rw [List.cons_append, List.cons_append, List.append_assoc] at h
  rw [exec_reset hi, resetTrace_eq]
  exact microUnit_of_run_error (run_busReset_of_polls hphases hpolls h h1 h2)

/-! ### A failing call -/

theorem length_phaseSamples (want : Bool) {k : Nat} (hk : 1 ≤ k) : (phaseSamples want k).length = k := by
  simp [phaseSamples, Nat.sub_add_cancel hk]

theorem take_phaseSamples (want : Bool) {n k : Nat} (hn : n < k) :
    (phaseSamples want k).take n = List.replicate n (some (!want)) := by
  rw [phaseSamples, List.take_append_of_le_length (by rw [List.length_replicate]; omega), List.take_replicate,
    Nat.min_eq_left (by omega)]

/-- The sample after `n` of the two phases is the first call to fail: no delay follows it. -/
theorem polls_resetPolls_transport {p : Prof} {k1 k2 n : Nat} (hk : PollsWithin p k1 k2) (hn : n < k1 + k2)
    (hf : fits ((phaseSamples false k1 ++ phaseSamples true k2).take n) as = true) (hfail : a.status ≠ 0) :
    Proc.Polls (resetPolls p) (as ++ a :: rest) rest (.error (.err .transport)) (pollsTrace p.timing n ++ [.r]) := by
  obtain ⟨hk1, hbudget1, hk2, hbudget2⟩ := hk
  have hlen := length_phaseSamples false hk1
  obtain hphase1 | hphase2 := Nat.lt_or_ge n k1
  · rw [List.take_append_of_le_length (by omega), take_phaseSamples false hphase1] at hf
    exact (polls_pollPhase_transport p.timing false (by omega) hf hfail).bind_error _
  · obtain ⟨n, rfl⟩ := Nat.exists_eq_add_of_le hphase2
    rw [List.take_append, List.take_of_length_le (by omega), hlen, Nat.add_sub_cancel_left,
      take_phaseSamples true (by omega), fits_append] at hf
    obtain ⟨as1, as2, rfl, hf1, hf2⟩ := hf
    rw [List.append_assoc, pollsTrace_add, List.append_assoc]
    exact (polls_pollPhase_ok p.timing false hk1 hbudget1 hf1).bind
      (polls_pollPhase_transport p.timing true (by omega) hf2 hfail)

theorem callCount_pollsTrace (P : Profile) (n : Nat) : callCount (pollsTrace P n) = n := by
  induction n with
  | zero => rfl
  | succ n ih =>
    rw [pollsTrace_add, callCount_append, ih]
    rfl

theorem latched_pollsTrace (line : Option Bool) (P : Profile) (n : Nat) : latched line (pollsTrace P n) = line := by
  induction n with
  | zero => rfl
  | succ n ih =>
    rw [pollsTrace_add, latched_append, ih]
    rfl

/-- Up to the sample after `n` polls. -/
theorem upToCall_pollsTrace (P : Profile) {n k : Nat} (hn : n < k) (evs : List PortEvent) :
    upToCall (n + 1) (pollsTrace P k ++ evs) = pollsTrace P n ++ [.r] := by
  obtain ⟨m, rfl⟩ : ∃ m, k = n + (1 + m) := ⟨k - n - 1, by omega⟩
  have h := upToCall_append_right (pollsTrace P n) (pollsTrace P (1 + m) ++ evs) 0
  rw [callCount_pollsTrace] at h
  rw [pollsTrace_add, List.append_assoc, h, pollsTrace_add]
  rfl

theorem upToCall_resetTrace (p : Prof) {n k : Nat} (hn : n < k) :
    upToCall (2 + (n + 1)) (resetTrace p k) = .irqOff :: (resetPulseTrace p ++ (pollsTrace p.timing n ++ [.r])) := by
  have h := upToCall_append_right (.irqOff :: resetPulseTrace p) (pollsTrace p.timing k ++ [.irqOn]) n
  rw [upToCall_pollsTrace p.timing hn] at h
  rw [resetTrace_eq, List.append_assoc]
  exact h

/-- The pulse leaves the line released, and polls do not write it. -/
theorem latched_upToCall_resetTrace (line : Option Bool) (p : Prof) {n k : Nat} (hn : n ≤ k) :
    latched line (upToCall (2 + n) (resetTrace p k)) = some true := by
  cases n with
  | zero => rfl
  | succ n =>
    rw [upToCall_resetTrace p (by omega), ← List.cons_append, ← List.append_assoc, latched_append, latched_append,
      latched_pollsTrace]
    rfl

/-- The first write of a reset fails, the second does, or one of the samples. -/
theorem run_busReset_failedAt {p : Prof} {k1 k2 j : Nat} (hk : PollsWithin p k1 k2) (hpolls : s.polls = none)
    (hj : j < (resetPresent k1 k2).length) (hf : fits ((resetPresent k1 k2).take j) as = true) (hfail : a.status ≠ 0)
    (h : s.env = as ++ a :: rest) :
    Proc.run (busReset p) s = (.error (.err .transport), s.failedAt (resetTrace p (k1 + k2)) j rest) := by
  rw [resetPresent_eq] at hj hf
  rcases j with _ | _ | n
  · obtain rfl := (fits_nil as).1 hf
    rw [busReset_eq, run_critical, Proc.run_bind_error (run_busWrite_error (s := s.irqOff) h hfail)]
    simp [State.failedAt, State.irqOff, State.irqOn, State.emit, resetTrace_eq, resetPulseTrace, upToCall, PortEvent.isCall]
  · obtain ⟨w1, _, rfl, h1, -, hf⟩ := (fits_cons ..).1 hf
    obtain rfl := (fits_nil _).1 hf
    rw [busReset_eq, run_critical, run_pulse_error _ _ (s := s.irqOff) h h1 hfail]
    simp [State.failedAt, State.irqOff, State.irqOn, State.emit, resetTrace_eq, resetPulseTrace, upToCall, PortEvent.isCall,
      latched]
  · obtain ⟨w1, _, rfl, h1, -, hf⟩ := (fits_cons ..).1 hf
    obtain ⟨w2, as, rfl, h2, -, hf⟩ := (fits_cons ..).1 hf
    have hn : n < k1 + k2 := by
      obtain ⟨hk1, -, hk2, -⟩ := hk
      simpa [length_phaseSamples, hk1, hk2] using hj
    rw [run_busReset_of_polls (polls_resetPolls_transport hk hn hf hfail) hpolls h h1 h2, State.failedAt,
      show n + 2 + 1 = 2 + (n + 1) by omega, upToCall_resetTrace p hn, Nat.add_comm n 2,
      latched_upToCall_resetTrace _ p hn.le]
    simp [State.ran]

/-- Settles O33: a phase uses up its budget, or the first call to fail ends the reset. -/
theorem resetReportsNoPresenceAndTransportFailure : Obligations.ResetReportsNoPresenceAndTransportFailure := by
  intro p i hi s as rest hpolls
  refine ⟨fun henv hfits => ?_, fun k1 henv hk hbudget hfits => ?_, fun k1 k2 hk j as a rest hj hfits hfail henv => ?_⟩
  · exact exec_reset_noPresence_phase1 hi hpolls henv hfits
  · exact exec_reset_noPresence_phase2 hi hk hbudget hpolls henv hfits
  · rw [exec_reset hi]
    exact microUnit_of_run_error (run_busReset_failedAt hk hpolls hj hfits hfail henv)

/-! ### All its ends -/

/-- The sequence ends early only in the given ways. -/
def Proc.FailsOnly (m : Proc α) (allowed : Stop → Prop) : Prop := ∀ s e, (Proc.run m s).1 = .error e → allowed e

theorem Proc.failsOnly_bind {m : Proc α} {f : α → Proc β} {allowed : Stop → Prop} (hm : Proc.FailsOnly m allowed)
    (hf : ∀ v, Proc.FailsOnly (f v) allowed) : Proc.FailsOnly (m >>= f) allowed := by
  intro s e he
  rcases hr : Proc.run m s with ⟨e' | v, t⟩
  · rw [Proc.run_bind_error hr] at he
    cases he
    exact hm s e (by rw [hr])
  · rw [Proc.run_bind_ok hr] at he
    exact hf v t e he

theorem Proc.failsOnly_of_ok {m : Proc α} (allowed : Stop → Prop) (h : ∀ s, ∃ v t, Proc.run m s = (.ok v, t)) :
    Proc.FailsOnly m allowed := by
  intro s e he
  obtain ⟨v, t, hr⟩ := h s
  rw [hr] at he
  cases he

/-- `ERR(TRANSPORT)` or `ERR(NO_PRESENCE)`. -/
def Stop.OfReset (e : Stop) : Prop := e = .err .transport ∨ e = .err .noPresence

theorem Proc.OnlyTransport.ofReset {m : Proc α} (h : Proc.OnlyTransport m) : Proc.FailsOnly m Stop.OfReset :=
  fun s e he => .inl (h s e he)

theorem failsOnly_pollLoop (P : Profile) (want : Bool) (budget fuel : Nat) :
    Proc.FailsOnly (pollLoop P want budget fuel) Stop.OfReset := by
  have hend : Proc.FailsOnly (Proc.fail .noPresence : Proc Unit) Stop.OfReset := by
    rintro s e ⟨⟩
    exact .inr rfl
  induction fuel with
  | zero => exact hend
  | succ fuel ih =>
    refine Proc.failsOnly_bind onlyTransport_busRead.ofReset fun v =>
      Proc.failsOnly_bind (Proc.failsOnly_of_ok _ fun _ => ⟨_, _, Proc.run_update _ _⟩) fun _ =>
        Proc.failsOnly_bind (onlyTransport_delayUs P.tPOLL).ofReset fun _ =>
          Proc.failsOnly_bind (Proc.failsOnly_of_ok _ fun _ => ⟨_, _, Proc.run_look _ _⟩) fun k => ?_
    split
    · exact (Proc.onlyTransport_pure ()).ofReset
    · split
      · exact ih
      · exact hend

theorem failsOnly_busReset (p : Prof) : Proc.FailsOnly (busReset p) Stop.OfReset := by
  have hphase : ∀ want budget, Proc.FailsOnly (pollPhase p.timing want budget) Stop.OfReset :=
    fun want budget s => failsOnly_pollLoop p.timing want budget budget { s with polls := some 0 }
  have hbody := Proc.failsOnly_bind (onlyTransport_busWrite false).ofReset fun _ =>
    Proc.failsOnly_bind (onlyTransport_delayUs p.timing.tRSTL).ofReset fun _ =>
      Proc.failsOnly_bind (onlyTransport_busWrite true).ofReset fun _ =>
        Proc.failsOnly_bind (onlyTransport_delayUs p.timing.tRSTH).ofReset fun _ =>
          Proc.failsOnly_bind (hphase false p.timing.nPDL) fun _ => hphase true p.timing.nPDH
  exact fun s => hbody s.irqOff

theorem OneSection.trace_length_le {n : Nat} {s t : State} (h : OneSection n s t) :
    t.trace.length ≤ s.trace.length + n := by
  obtain ⟨mid, htrace, hlength, -⟩ := h.trace
  simp only [htrace, List.length_append, List.length_cons, List.length_nil]
  omega

theorem exec_reset_bounded {p : Prof} {i : Instr} (hi : p = .std ∧ i = .resetStd ∨ p = .od ∧ i = .resetOd) (s : State) :
    ∃ t, exec i s = .next t ∧ t.trace.length ≤ s.trace.length + (6 + 2 * p.timing.nPDL + 2 * p.timing.nPDH) ∧
      t.cs = false ∧ (t.replies = s.replies ++ [microOk] ∨ t.replies = s.replies ++ [.micro (.err .transport)] ∨
        t.replies = s.replies ++ [.micro (.err .noPresence)]) := by
  have hcs := (oneSection_busReset p s).cs
  have hbound := (oneSection_busReset p s).trace_length_le
  have hreplies := (framed_busReset p s).replies
  have hfails := failsOnly_busReset p s
  rw [exec_reset hi]
  rcases hr : Proc.run (busReset p) s with ⟨e | _, t⟩ <;> rw [hr] at hcs hbound hreplies hfails
  · obtain rfl | rfl := hfails e rfl
    · exact ⟨_, microUnit_of_run_error hr, hbound, hcs, .inr (.inl (congrArg (· ++ _) hreplies))⟩
    · exact ⟨_, microUnit_of_run_error hr, hbound, hcs, .inr (.inr (congrArg (· ++ _) hreplies))⟩
  · exact ⟨_, microUnit_of_run_ok hr, hbound, hcs, .inl (congrArg (· ++ _) hreplies)⟩

/-- Settles O34: the pulse and two events for each poll of the budgets of 200 and 240, and of 20 and 20. -/
theorem resetEmitsBoundedEvents : Obligations.ResetEmitsBoundedEvents := by
  rintro i n s (⟨rfl, rfl⟩ | ⟨rfl, rfl⟩)
  · exact exec_reset_bounded (p := .std) (.inl ⟨rfl, rfl⟩) s
  · exact exec_reset_bounded (p := .od) (.inr ⟨rfl, rfl⟩) s

end Sys2Proof.Machine
end

section
/-! An addressing sequence that fails, and one that only seems to: a stop at the read of an unwritten ROM (60_exceptions.md R376)
leaves the replies as they were, so where the last of them is an earlier micro-operation's `ERR(c)`, the state ADDRESS ends in
is also one in which that reply has just been appended. -/

namespace Sys2Proof.Machine

/-- Mode 2 on a core on which the read of the unwritten ROM faults (R376), with a device that answers the reset, and with a
failed micro-operation as the last reply. -/
def unwrittenRomState : State :=
  { State.reset with
    inited := true
    mode := 2
    modeWritten := true
    unwrittenFaults := true
    env := [⟨0, false⟩, ⟨0, false⟩, ⟨0, false⟩, ⟨0, true⟩] ++ List.replicate 16 ⟨0, false⟩
    replies := [.micro (.err .transport)] }

/-- Where ADDRESS stops in that state: after the reset and the command byte, at the read of ROM, with no reply. -/
def unwrittenRomStopped : State :=
  (unwrittenRomState.ran (resetTrace .std 2 ++ byteWriteTrace .std 0x55) []).halted (.unwrittenRead .rom)

theorem exec_address_unwrittenRomState : exec .address unwrittenRomState = .next unwrittenRomStopped := rfl

theorem exec_readScratchpad_unwrittenRomState : exec .readScratchpad unwrittenRomState = .next unwrittenRomStopped := rfl

/-- Refutes O35: its `t` may have fewer replies than `s`. From `unwrittenRomState` ADDRESS and READ_SCRATCHPAD stop in one and
the same state, whose last reply, the earlier ERR(TRANSPORT), makes it an end of ADDRESS with that error, but it holds no host
response. -/
theorem not_failedFirstStepEndsTheSequence : ¬ Obligations.FailedFirstStepEndsTheSequence := by
  intro h
  have hquiet : unwrittenRomState.Quiet := ⟨rfl, rfl, rfl, rfl, rfl, rfl⟩
  obtain ⟨-, -, haddress⟩ := h unwrittenRomState { unwrittenRomStopped with replies := [] } .transport hquiet
  obtain ⟨-, -, hhost⟩ := haddress exec_address_unwrittenRomState ⟨rfl, by decide⟩
  obtain ⟨-, hread⟩ := hhost ⟨rfl, rfl⟩
  have hreplies := congrArg State.replies (Host.Outcome.next.inj (exec_readScratchpad_unwrittenRomState.symm.trans hread))
  exact absurd hreplies (by decide)

end Sys2Proof.Machine
end

section
/-! MODE in the prelude of the addressed host operations, after the checks of the handle, of INITED and of the arguments
(45_memory_transactions.md R273, 60_exceptions.md R364). -/

namespace Sys2Proof.Machine

variable {s : State} {check : Proc Unit}

theorem run_checkRange_of_le {addr : Half} {len : Nat} (h : addr.toNat + len ≤ 128) (s : State) :
    Proc.run (checkRange addr len) s = (.ok (), s) := by
  have hgood : addr.toNat + len ≤ cfg.memSize := h
  simp [checkRange, hgood]

theorem run_checkPage_of_page_below {addr : Half} (halign : addr.toNat % 8 = 0) (hbelow : addr.toNat < 0x80) (s : State) :
    Proc.run (checkPage addr) s = (.ok (), s) := by
  have halign : addr.toNat % cfg.page = 0 := halign
  have hbelow : addr.toNat < cfg.memSize := hbelow
  simp [checkPage, halign, hbelow]

/-- What is left of the prelude is the test of MODE. -/
theorem run_addressedPrelude_of_check_ok (hs : s.Ready) (hcheck : Proc.run check s = (.ok (), s)) :
    Proc.run (addressedPrelude check) s = Proc.run checkMode s := by
  rw [addressedPrelude, Proc.run_bind_ok (run_checkHandleInit_of_ready hs), Proc.run_bind_ok hcheck]

theorem run_addressedPrelude_ok (hs : s.Ready) (hcheck : Proc.run check s = (.ok (), s)) (hmode : s.ModeLegal) :
    Proc.run (addressedPrelude check) s = (.ok (), s) := by
  obtain ⟨hreadable, hlegal⟩ := hmode
  rw [run_addressedPrelude_of_check_ok hs hcheck, run_checkMode, if_neg (by simp [hreadable]), if_pos hlegal]

theorem runHost_addressedPrelude_of_mode_invalid (status : Cause → Byte) {rest : Unit → Proc Output} (hs : s.Ready)
    (hreadable : s.modeReadable = true) (hmode : 5 < s.mode.toNat) (hcheck : Proc.run check s = (.ok (), s)) :
    runHost status (addressedPrelude check >>= rest) s =
      .next (s.reply (hostReply (status .modeInvalid) .modeInvalid .none)) := by
  have hinvalid : Proc.run (addressedPrelude check) s = (.error (.err .modeInvalid), s) := by
    rw [run_addressedPrelude_of_check_ok hs hcheck, run_checkMode, if_neg (by simp [hreadable]), if_neg (by omega)]
  exact runHost_of_run_error (Proc.run_bind_error hinvalid)

/-- Settles O17: the argument check passes, so the first failing check of the operation is its test of MODE. -/
theorem invalidModeIsRejectedBeforeTheBus : Obligations.InvalidModeIsRejectedBeforeTheBus := by
  intro s hs hreadable hmode
  have hno : Proc.run noArgument s = (.ok (), s) := Proc.run_pure () s
  refine ⟨fun addr len h => ⟨?_, ?_⟩, fun addr data h => ?_, ?_, fun block => ?_, ?_,
    fun addr data halign hbelow => ⟨?_, ?_⟩⟩
  · exact runHost_addressedPrelude_of_mode_invalid (HostOp.status .read) hs hreadable hmode (run_checkRange_of_le h s)
  · exact runHost_addressedPrelude_of_mode_invalid (HostOp.status .readMemory) hs hreadable hmode (run_checkRange_of_le h s)
  · exact runHost_addressedPrelude_of_mode_invalid (HostOp.status .write) hs hreadable hmode (run_checkRange_of_le h s)
  · exact runHost_addressedPrelude_of_mode_invalid (HostOp.status .readConfig) hs hreadable hmode hno
  · exact runHost_addressedPrelude_of_mode_invalid (HostOp.status .writeConfig) hs hreadable hmode hno
  · exact runHost_addressedPrelude_of_mode_invalid (HostOp.status .readScratchpad) hs hreadable hmode hno
  · exact runHost_addressedPrelude_of_mode_invalid (HostOp.status .writeScratchpad) hs hreadable hmode
      (run_checkPage_of_page_below halign hbelow s)
  · exact runHost_addressedPrelude_of_mode_invalid (HostOp.status .copyScratchpad) hs hreadable hmode
      (run_checkPage_of_page_below halign hbelow s)

/-! ### ROM_MATCH -/

/-- The bus sequence of ROM_MATCH, after its checks (43_rom_addressing.md R220). -/
def romMatchFrame : Proc Unit := do
  busReset .std
  sendOdMatchRom
  sendRom .od

theorem romMatchBody_eq : romMatchBody = checkHandleInit >>= fun _ => romMatchFrame >>= fun _ => pure .none := by
  simp only [romMatchFrame, bind_assoc]
  rfl

/-- Settles O37: the checks pass, and the frame is the one ADDRESS sends in mode 3, whatever MODE holds. -/
theorem romMatchSendsTheOverdriveMatch : Obligations.RomMatchSendsTheOverdriveMatch := by
  intro s k1 k2 as rest hquiet hs hrom hk henv hfits
  obtain ⟨-, -, -, -, hpolls, -⟩ := hquiet
  have hframe : Proc.run romMatchFrame s = (.ok (), s.ran (resetTrace .std (k1 + k2) ++ byteWriteTrace .std 0x69
      ++ bytesWriteTrace .od s.rom.toList) rest) :=
    run_resetCommandRom_ok .od cfg.cmdOdMatchRom hpolls hrom hk henv hfits
  show runHost (HostOp.status .romMatch) romMatchBody s = _
  rw [runHost, romMatchBody_eq, Proc.run_bind_ok (run_checkHandleInit_of_ready hs), Proc.run_bind_ok hframe, Proc.run_pure]
  rfl

end Sys2Proof.Machine
end

section
/-! What does not depend on the contents of MODE and ROM (43_rom_addressing.md R220, 44_rom_search.md R240, R242, R251): a
sequence that reads neither register, or ROM only, runs the same under any change of the others. -/

namespace Sys2Proof.Machine

variable {α β : Type}

/-- A change of MODE to given contents, and of ROM to contents that may depend on those it has. -/
structure RegisterChange where
  mode : Byte
  modeWritten : Bool
  rom : Bytes8 → Bytes8
  romWritten : Bool → Bool

/-- The state with its registers changed. -/
def State.change (s : State) (c : RegisterChange) : State :=
  s.withModeRom c.mode c.modeWritten (c.rom s.rom) (c.romWritten s.romWritten)

variable {c : RegisterChange}

/-- From the changed state the sequence ends the same, but for the change. -/
def Proc.Ignores (c : RegisterChange) (m : Proc α) : Prop := ∀ s, run m (s.change c) = ((run m s).1, (run m s).2.change c)

theorem Proc.ignores_pure (a : α) : Ignores c (pure a : Proc α) := fun _ => rfl

theorem Proc.ignores_bind {m : Proc α} {f : α → Proc β} (hm : Ignores c m) (hf : ∀ a, Ignores c (f a)) :
    Ignores c (m >>= f) := by
  intro s
  rw [run_bind, run_bind, hm s]
  rcases run m s with ⟨_ | a, t⟩
  · rfl
  · exact hf a t

theorem Proc.ignores_look {f : State → α} (hf : ∀ s : State, f (s.change c) = f s) : Ignores c (look f) := by
  intro s
  rw [run_look, run_look, hf]

/-- A sequence run between two changes of state that do not touch the registers, the second made on every exit. -/
theorem Proc.ignores_enclosed {m : Proc α} {enter leave : State → State}
    (henter : ∀ s : State, enter (s.change c) = (enter s).change c)
    (hleave : ∀ s : State, leave (s.change c) = (leave s).change c) (hm : Ignores c m) :
    Ignores c (update enter >>= fun _ => m.ensuring leave) := by
  intro s
  rw [run_bind_ok (run_update _ _), run_bind_ok (run_update _ _), run_ensuring, run_ensuring, henter, hm, hleave]

open Proc

/-! ### Bits, bytes and resets -/

theorem ignores_require (ok : Bool) (e : Cause) : Ignores c (require ok e) := by
  cases ok <;> exact fun _ => rfl

theorem ignores_callOr (e : PortEvent) (cause : Cause) : Ignores c (callOr e cause) := by
  intro s
  have hanswer : ((s.change c).emit e).answer = (s.emit e).answer := rfl
  rw [run_callOr, run_callOr, hanswer]
  split <;> rfl

theorem ignores_busWrite (b : Bool) : Ignores c (busWrite b) := ignores_bind (ignores_callOr _ _) fun _ _ => rfl

theorem ignores_busRead : Ignores c busRead := ignores_bind (ignores_callOr _ _) fun _ => ignores_pure _

theorem ignores_delayUs (n : Nat) : Ignores c (delayUs n) := fun _ => rfl

theorem ignores_critical {m : Proc α} (hm : Ignores c m) : Ignores c (critical m) :=
  ignores_enclosed (fun _ => rfl) (fun _ => rfl) hm

theorem ignores_writeSlot (P : Profile) (b : Bool) : Ignores c (writeSlot P b) :=
  ignores_bind (ignores_busWrite _) fun _ => ignores_bind (ignores_delayUs _) fun _ =>
    ignores_bind (ignores_busWrite _) fun _ => ignores_delayUs _

theorem ignores_readSlot (P : Profile) : Ignores c (readSlot P) :=
  ignores_bind (ignores_busWrite _) fun _ => ignores_bind (ignores_delayUs _) fun _ =>
    ignores_bind (ignores_busWrite _) fun _ => ignores_bind (ignores_delayUs _) fun _ =>
      ignores_bind ignores_busRead fun _ => ignores_bind (ignores_delayUs _) fun _ => ignores_pure _

theorem ignores_writeSlots (P : Profile) : ∀ bs, Ignores c (writeSlots P bs)
  | [] => ignores_pure _
  | _ :: bs => ignores_bind (ignores_writeSlot _ _) fun _ => ignores_writeSlots P bs

theorem ignores_writeByte (p : Prof) (x : Byte) : Ignores c (writeByte p x) := ignores_critical (ignores_writeSlots _ _)

theorem ignores_writeBytes (p : Prof) : ∀ xs, Ignores c (writeBytes p xs)
  | [] => ignores_pure _
  | _ :: xs => ignores_bind (ignores_writeByte _ _) fun _ => ignores_writeBytes p xs

theorem ignores_pollLoop (P : Profile) (want : Bool) (budget : Nat) : ∀ fuel, Ignores c (pollLoop P want budget fuel)
  | 0 => fun _ => rfl
  | fuel + 1 => by
    have hcount : Ignores c countPoll := fun _ => rfl
    refine ignores_bind ignores_busRead fun v => ignores_bind hcount fun _ => ignores_bind (ignores_delayUs _) fun _ =>
      ignores_bind (ignores_look fun _ => rfl) fun k => ?_
    split
    · exact ignores_pure _
    · split
      · exact ignores_pollLoop P want budget fuel
      · exact fun _ => rfl

theorem ignores_pollPhase (P : Profile) (want : Bool) (budget : Nat) : Ignores c (pollPhase P want budget) :=
  ignores_enclosed (fun _ => rfl) (fun _ => rfl) (ignores_pollLoop _ _ _ _)

theorem ignores_busReset (p : Prof) : Ignores c (busReset p) :=
  ignores_critical <| ignores_bind (ignores_busWrite _) fun _ => ignores_bind (ignores_delayUs _) fun _ =>
    ignores_bind (ignores_busWrite _) fun _ => ignores_bind (ignores_delayUs _) fun _ =>
      ignores_bind (ignores_pollPhase _ _ _) fun _ => ignores_pollPhase _ _ _

theorem ignores_checkHandleInit : Ignores c checkHandleInit :=
  ignores_bind (ignores_bind (ignores_look fun _ => rfl) fun _ => ignores_require _ _) fun _ =>
    ignores_bind (ignores_look fun _ => rfl) fun _ => ignores_require _ _

/-! ### The search -/

theorem ignores_updateSearch (f : Search → Search) : Ignores c (updateSearch f) := fun _ => rfl

theorem ignores_pushDiscrepancy (p : Nat) : Ignores c (pushDiscrepancy p) := by
  refine ignores_bind (ignores_look fun _ => rfl) fun stk => ?_
  split
  · exact ignores_updateSearch _
  · exact fun _ => rfl

theorem ignores_decideDiscrepancy (p : Nat) : Ignores c (decideDiscrepancy p) := by
  refine ignores_bind (ignores_look fun _ => rfl) fun q => ?_
  split
  · exact ignores_bind (ignores_pushDiscrepancy p) fun _ => ignores_pure _
  · split
    · exact ignores_pure _
    · exact ignores_bind (ignores_updateSearch _) fun _ => ignores_pure _

theorem ignores_decideDirection (p : Nat) (b b' : Bool) : Ignores c (decideDirection p b b') := by
  unfold decideDirection
  split
  · exact ignores_decideDiscrepancy p
  · exact ignores_pure _

theorem ignores_searchTriplet (p : Nat) : Ignores c (searchTriplet p) := by
  refine ignores_critical <| ignores_bind (ignores_readSlot _) fun b => ignores_bind (ignores_readSlot _) fun b' => ?_
  split
  · exact ignores_pure _
  · exact ignores_bind (ignores_decideDirection _ _ _) fun _ => ignores_bind (ignores_writeSlot _ _) fun _ => ignores_pure _

theorem ignores_searchPositions : ∀ n, Ignores c (searchPositions n)
  | 0 => ignores_pure _
  | n + 1 => by
    refine ignores_bind (ignores_searchTriplet _) fun t => ?_
    split
    · exact ignores_pure _
    · exact ignores_bind (ignores_updateSearch _) fun _ => ignores_searchPositions n

theorem ignores_searchPass (cmd : Byte) : Ignores c (searchPass cmd) :=
  ignores_bind (ignores_busReset _) fun _ => ignores_bind (ignores_writeByte _ _) fun _ =>
    ignores_bind (ignores_updateSearch _) fun _ => ignores_searchPositions _

theorem ignores_searchLoop (cmd : Byte) (n : Nat) : ∀ fuel, Ignores c (searchLoop cmd n fuel)
  | 0 => ignores_pure _
  | fuel + 1 => by
    refine ignores_bind (ignores_searchPass _) fun full => ?_
    split
    · refine ignores_bind (ignores_updateSearch _) fun _ => ignores_bind (ignores_look fun _ => rfl) fun q => ?_
      split
      · exact ignores_pure _
      · exact ignores_searchLoop cmd n fuel
    · exact ignores_pure _

theorem ignores_searchEngine (n : Nat) (cmd : Byte) : Ignores c (searchEngine n cmd) := by
  unfold searchEngine
  split
  · exact ignores_pure _
  · exact ignores_enclosed (fun _ => rfl) (fun _ => rfl)
      (ignores_bind (ignores_searchLoop _ _ _) fun _ => ignores_look fun _ => rfl)

theorem ignores_searchRomBody (n : Byte) : Ignores c (searchRomBody n) :=
  ignores_bind ignores_checkHandleInit fun _ => ignores_bind (ignores_require _ _) fun _ =>
    ignores_bind (ignores_searchEngine _ _) fun _ => ignores_pure _

/-! ### ROM_MATCH under a change of MODE only -/

/-- MODE changed to the given contents, and ROM left. -/
def modeChange (mode : Byte) (modeWritten : Bool) : RegisterChange := ⟨mode, modeWritten, id, id⟩

theorem change_modeChange {s t : State} (hrom : t.rom = s.rom) (hromWritten : t.romWritten = s.romWritten) (mode : Byte)
    (modeWritten : Bool) : t.change (modeChange mode modeWritten) = t.withModeRom mode modeWritten s.rom s.romWritten := by
  rw [← hrom, ← hromWritten]
  rfl

theorem ignores_readRom (mode : Byte) (modeWritten : Bool) : Ignores (modeChange mode modeWritten) readRom := by
  refine ignores_bind (ignores_look fun _ => rfl) fun readable => ?_
  split
  · exact ignores_look fun _ => rfl
  · exact fun _ => rfl

theorem ignores_romMatchBody (mode : Byte) (modeWritten : Bool) : Ignores (modeChange mode modeWritten) romMatchBody :=
  ignores_bind ignores_checkHandleInit fun _ => ignores_bind (ignores_busReset _) fun _ =>
    ignores_bind (ignores_writeByte _ _) fun _ =>
      ignores_bind (ignores_bind (ignores_readRom _ _) fun _ => ignores_writeBytes _ _) fun _ => ignores_pure _

/-! ### Whole instructions -/

theorem runHost_change {body : Proc Output} (h : Ignores c body) (status : Cause → Byte) (s : State) :
    runHost status body (s.change c) = .next ((hostEnd status (Proc.run body s)).change c) := by
  rw [runHost, h s]
  rcases Proc.run body s with ⟨(_ | _) | _, _⟩ <;> rfl

theorem runMicro_change {body : Proc MicroResult} (h : Ignores c body) (s : State) :
    runMicro body (s.change c) = .next ((microEnd (Proc.run body s)).change c) := by
  rw [runMicro, h s]
  rcases Proc.run body s with ⟨(_ | _) | _, _⟩ <;> rfl

theorem hostEnd_rom (status : Cause → Byte) (r : Except Stop Output × State) :
    (hostEnd status r).rom = r.2.rom ∧ (hostEnd status r).romWritten = r.2.romWritten := by
  rcases r with ⟨(_ | _) | _, _⟩ <;> exact ⟨rfl, rfl⟩

/-- Settles O38: the search reads neither register, and ROM_MATCH reads ROM only, which it leaves. -/
theorem searchAndRomMatchIgnoreMode : Obligations.SearchAndRomMatchIgnoreMode := by
  intro s m mw r rw
  refine ⟨fun n => ⟨_, rfl, ?_⟩, fun n cmd => ⟨_, rfl, ?_⟩, ⟨_, rfl, ?_⟩⟩
  · exact runHost_change (c := ⟨m, mw, fun _ => r, fun _ => rw⟩) (ignores_searchRomBody n) (HostOp.status .searchRom) s
  · exact runMicro_change (c := ⟨m, mw, fun _ => r, fun _ => rw⟩)
      (ignores_bind (ignores_searchEngine n.toNat cmd) fun _ => ignores_pure _) s
  · have hframe := built_romMatchBody (o := none).framed s
    obtain ⟨hrom, hromWritten⟩ := hostEnd_rom (HostOp.status .romMatch) (Proc.run romMatchBody s)
    refine (runHost_change (ignores_romMatchBody m mw) (HostOp.status .romMatch) s).trans (congrArg _ ?_)
    exact change_modeChange (hrom.trans hframe.rom) (hromWritten.trans hframe.romWritten) m mw

end Sys2Proof.Machine
end

section
/-! A call that fails in an addressing sequence or a memory transaction (43_rom_addressing.md R212, R220, R221,
45_memory_transactions.md R274, R288, R290). Every part of a transaction is described once, by the calls it makes with its
trace: what it does when they all succeed (`Transacts`) and when one of them is the first to fail (`FailsAtCall`). Both are
closed under sequencing, so a whole transaction is described by its parts. -/

namespace Sys2Proof.Machine

variable {α β : Type} {s : State} {tx tx' tx'' : Option ScratchTx} {ws ws' : List Wanted} {evs evs' : List PortEvent}

/-! ### Traces up to a call of their second part -/

/-- Events after the last call do not write the line. -/
theorem latched_upToCall_callCount (line : Option Bool) (evs : List PortEvent) :
    latched line (upToCall (callCount evs) evs) = latched line evs := by
  induction evs generalizing line with
  | nil => rfl
  | cons e es ih =>
    rw [callCount_cons]
    cases e with
    | w b => rw [PortEvent.isCall, if_pos rfl, Nat.add_comm]; exact ih (some b)
    | r | busInit | busDeinit => rw [PortEvent.isCall, if_pos rfl, Nat.add_comm]; exact ih line
    | dus _ | dms _ | irqOff | irqOn =>
      rw [PortEvent.isCall, if_neg nofun, Nat.zero_add]
      refine Eq.trans ?_ (ih line)
      cases callCount es <;> simp [upToCall, PortEvent.isCall, latched]

theorem latched_upToCall_append (line : Option Bool) (a b : List PortEvent) (n : Nat) :
    latched line (upToCall (callCount a + n) (a ++ b)) = latched (latched line a) (upToCall n b) := by
  cases n with
  | zero => rw [Nat.add_zero, upToCall_append_left a b _ le_rfl, latched_upToCall_callCount, upToCall_zero, latched_nil]
  | succ n => rw [upToCall_append_right, latched_append]

/-- The failing call is in the first part of the trace. -/
theorem failedAt_append_left (s : State) (a b : List PortEvent) {j : Nat} (hj : j < callCount a) (rest : List Answer) :
    s.failedAt (a ++ b) j rest = s.failedAt a j rest := by
  rw [State.failedAt, upToCall_append_left a b _ hj, upToCall_append_left a b _ hj.le]
  rfl

/-- The failing call is in the second part of the trace: the first part is emitted whole and its last write latched. -/
theorem failedAt_append_right (s : State) (a b : List PortEvent) (j : Nat) (rest : List Answer) :
    s.failedAt (a ++ b) (callCount a + j) rest =
      { s with
        trace := s.trace ++ (a ++ (upToCall (j + 1) b ++ [.irqOn]))
        env := rest
        line := latched (latched s.line a) (upToCall j b)
        cs := false } := by
  rw [State.failedAt, latched_upToCall_append, Nat.add_assoc, upToCall_append_right]
  simp only [List.append_assoc]

/-! ### Sent and received bytes -/

/-- Which slot of a list of slots a call belongs to. -/
theorem exists_slot_of_call (g : Bool → List Wanted) {bs : List Bool} {j : Nat} (hj : j < (bs.flatMap g).length) :
    ∃ (before : List Bool) (b : Bool) (after : List Bool) (i : Nat),
      bs = before ++ b :: after ∧ j = (before.flatMap g).length + i ∧ i < (g b).length := by
  induction bs generalizing j with
  | nil => exact absurd hj (Nat.not_lt_zero j)
  | cons b bs ih =>
    obtain hfirst | hlater := Nat.lt_or_ge j (g b).length
    · exact ⟨[], b, bs, j, rfl, (Nat.zero_add j).symm, hfirst⟩
    · rw [List.flatMap_cons, List.length_append] at hj
      obtain ⟨before, c, after, i, rfl, hi, hlt⟩ := ih (j := j - (g b).length) (by omega)
      refine ⟨b :: before, c, after, i, rfl, ?_, hlt⟩
      rw [List.flatMap_cons, List.length_append]
      omega

theorem take_flatMap_append (g : Bool → List Wanted) (before : List Bool) (b : Bool) (after : List Bool) {i : Nat}
    (hi : i < (g b).length) :
    ((before ++ b :: after).flatMap g).take ((before.flatMap g).length + i) = before.flatMap g ++ (g b).take i := by
  rw [List.flatMap_append, List.take_length_add_append, List.flatMap_cons, List.take_append_of_le_length hi.le]

theorem callCount_flatMap {f : α → List PortEvent} {g : α → List Wanted} (h : ∀ b, callCount (f b) = (g b).length)
    (bs : List α) : callCount (bs.flatMap f) = (bs.flatMap g).length := by
  induction bs with
  | nil => rfl
  | cons b bs ih => rw [List.flatMap_cons, List.flatMap_cons, callCount_append, List.length_append, h, ih]

theorem latched_flatMap {f : α → List PortEvent} (h : ∀ line b, latched line (f b) = some true) (line : Option Bool)
    (bs : List α) : latched line (bs.flatMap f) = if bs.length = 0 then line else some true := by
  induction bs generalizing line with
  | nil => rfl
  | cons b bs ih =>
    rw [List.flatMap_cons, latched_append, h, ih, ite_self]
    rfl

theorem callCount_writeSlotTrace (P : Profile) (b : Bool) : callCount (writeSlotTrace P b) = (slotsWritten 1).length := by
  cases b <;> rfl

theorem latched_writeSlotTrace (P : Profile) (line : Option Bool) (b : Bool) :
    latched line (writeSlotTrace P b) = some true := by
  cases b <;> rfl

/-- The call `i` of a slot of a section is the first to fail, after the slots of `before`. -/
theorem failedAt_section (s : State) {f : Bool → List PortEvent} {g : Bool → List Wanted}
    (hcalls : ∀ b, callCount (f b) = (g b).length) (hlatched : ∀ line b, latched line (f b) = some true)
    (before : List Bool) (b : Bool) (after : List Bool) (i : Nat) (rest : List Answer) :
    s.failedAt (.irqOff :: ((before ++ b :: after).flatMap f ++ [.irqOn])) ((before.flatMap g).length + i) rest =
      { s with
        trace := s.trace ++ (.irqOff :: (before.flatMap f
          ++ (upToCall (i + 1) (f b ++ (after.flatMap f ++ [.irqOn])) ++ [.irqOn])))
        env := rest
        line := latched (if before.length = 0 then s.line else some true)
          (upToCall i (f b ++ (after.flatMap f ++ [.irqOn])))
        cs := false } := by
  have h := failedAt_append_right s (.irqOff :: before.flatMap f) (f b ++ (after.flatMap f ++ [.irqOn])) i rest
  have hcount : callCount (.irqOff :: before.flatMap f) = (before.flatMap g).length := by
    rw [callCount_cons, callCount_flatMap hcalls]
    exact Nat.zero_add _
  have hline : latched s.line (.irqOff :: before.flatMap f) = if before.length = 0 then s.line else some true :=
    latched_flatMap hlatched s.line before
  rw [hcount, hline] at h
  rw [List.flatMap_append, List.flatMap_cons, List.append_assoc, List.append_assoc, ← List.cons_append]
  exact h

theorem lsbFirst_eq_append_cons {x : Byte} {before : List Bool} {b : Bool} {after : List Bool}
    (h : lsbFirst x = before ++ b :: after) :
    before.length < 8 ∧ (lsbFirst x).take before.length = before ∧ x.getLsbD before.length = b := by
  have hlength : (lsbFirst x).length = 8 := rfl
  have htake : (lsbFirst x).take before.length = before := by rw [h, List.take_left]
  rw [h, List.length_append, List.length_cons] at hlength
  have hsplit := lsbFirst_split x (n := before.length) (by omega)
  rw [htake, h] at hsplit
  exact ⟨by omega, htake, (List.cons.inj (List.append_cancel_left hsplit)).1.symm⟩

theorem slotsWritten_length (bs : List α) : slotsWritten bs.length = bs.flatMap fun _ => slotsWritten 1 := by
  induction bs with
  | nil => rfl
  | cons b bs ih => rw [List.length_cons, Nat.add_comm, slotsWritten_add, ih, List.flatMap_cons]

theorem run_writeByte_failedAt (p : Prof) (x : Byte) {j : Nat} {as rest : List Answer} {a : Answer}
    (hj : j < (bytesWritten 1).length) (hf : fits ((bytesWritten 1).take j) as = true) (hfail : a.status ≠ 0)
    (h : s.env = as ++ a :: rest) :
    Proc.run (writeByte p x) s = (.error (.err .transport), s.failedAt (byteWriteTrace p x) j rest) := by
  have hwanted : bytesWritten 1 = (lsbFirst x).flatMap fun _ => slotsWritten 1 := rfl
  rw [hwanted] at hj hf
  obtain ⟨before, b, after, i, hbits, rfl, hi⟩ := exists_slot_of_call _ hj
  obtain ⟨hn, hbefore, hb⟩ := lsbFirst_eq_append_cons hbits
  rw [hbits, take_flatMap_append _ before b after hi, fits_append] at hf
  obtain ⟨as1, as2, rfl, hf1, hf2⟩ := hf
  have hf1 : fits (slotsWritten before.length) as1 = true := by rwa [slotsWritten_length]
  rw [List.append_assoc] at h
  rw [byteWriteTrace, hbits, failedAt_section s (callCount_writeSlotTrace _) (latched_writeSlotTrace _)]
  rcases i with _ | _ | _
  · obtain rfl := (fits_nil as2).1 hf2
    have hrun := run_writeByte_error p x hn hf1 h ((failsAfter_busWrite false hfail).bind _)
    rw [hbefore] at hrun
    rw [hrun]
    cases b <;> rfl
  · obtain ⟨a0, _, rfl, h0, -, hnil⟩ := (fits_cons ..).1 hf2
    obtain rfl := (fits_nil _).1 hnil
    have hrun := run_writeByte_error p x hn hf1 h (failsAfter_pulse _ _ h0 hfail)
    rw [hbefore, hb] at hrun
    rw [hrun]
    cases b <;> rfl
  · exact absurd hi (by simp [slotsWritten])

theorem run_readByte_failedAt (p : Prof) (x : Byte) {j : Nat} {as rest : List Answer} {a : Answer} (hacc : s.acc = none)
    (hj : j < (bytesRead [x]).length) (hf : fits ((bytesRead [x]).take j) as = true) (hfail : a.status ≠ 0)
    (h : s.env = as ++ a :: rest) :
    Proc.run (readByte p) s = (.error (.err .transport), s.failedAt (byteReadTrace p) j rest) := by
  have hwanted : bytesRead [x] = (lsbFirst x).flatMap slotRead := List.append_nil _
  have htrace : byteReadTrace p = .irqOff :: ((lsbFirst x).flatMap (fun _ => readSlotTrace p.timing) ++ [.irqOn]) := rfl
  rw [hwanted] at hj hf
  obtain ⟨before, b, after, i, hbits, rfl, hi⟩ := exists_slot_of_call _ hj
  obtain ⟨hn, -, -⟩ := lsbFirst_eq_append_cons hbits
  rw [hbits, take_flatMap_append _ before b after hi, fits_append] at hf
  obtain ⟨as1, as2, rfl, hf1, hf2⟩ := hf
  rw [List.append_assoc] at h
  rw [htrace, hbits, failedAt_section s (fun _ => rfl) (fun _ _ => rfl)]
  rcases i with _ | _ | _ | _
  · obtain rfl := (fits_nil as2).1 hf2
    rw [run_readByte_error p before hn hf1 h ((failsAfter_busWrite false hfail).bind _)]
    simp [hacc, readSlotTrace, upToCall, PortEvent.isCall]
  · obtain ⟨a0, _, rfl, h0, -, hnil⟩ := (fits_cons ..).1 hf2
    obtain rfl := (fits_nil _).1 hnil
    rw [run_readByte_error p before hn hf1 h (failsAfter_pulse _ _ h0 hfail)]
    simp [hacc, readSlotTrace, upToCall, latched, PortEvent.isCall]
  · obtain ⟨a0, _, rfl, h0, -, hf2⟩ := (fits_cons ..).1 hf2
    obtain ⟨a1, _, rfl, h1, -, hnil⟩ := (fits_cons ..).1 hf2
    obtain rfl := (fits_nil _).1 hnil
    rw [run_readByte_error p before hn hf1 h (failsAfter_readSlot_sample p.timing h0 h1 hfail)]
    simp [hacc, readSlotTrace, upToCall, latched, PortEvent.isCall]
  · exact absurd hi (by simp [slotRead])

/-! ### The parts of a transaction -/

/-- The state in the middle of a transaction that began in `s`: `evs` are its events so far, all of whose calls succeeded, `env`
the answers to come, and no critical section is open. -/
def State.midway (s : State) (evs : List PortEvent) (tx : Option ScratchTx) (env : List Answer) : State :=
  { s with trace := s.trace ++ evs, env := env, line := latched s.line evs, cs := false, tx := tx }

/-- In the middle of a transaction that began in `s`, the sequence, which makes the calls `ws` with the trace `evs` while they
all succeed, ends with TRANSPORT at whichever of them fails first. -/
def Proc.FailsAtCall (s : State) (m : Proc α) (tx : Option ScratchTx) (ws : List Wanted) (evs : List PortEvent) : Prop :=
  ∀ (pre : List PortEvent) (j : Nat) (as : List Answer) (a : Answer) (rest : List Answer), j < ws.length →
    fits (ws.take j) as = true → a.status ≠ 0 → ∃ tx', run m (s.midway pre tx (as ++ a :: rest)) =
      (.error (.err .transport), { s.failedAt (pre ++ evs) (callCount pre + j) rest with tx := tx' })

/-- In the middle of a transaction that began in `s`, the sequence makes no call, changes the scratchpad transaction only, and
ends with `v`. -/
def Proc.Silent (s : State) (m : Proc α) (tx : Option ScratchTx) (v : α) (tx' : Option ScratchTx) : Prop :=
  ∀ pre env, run m (s.midway pre tx env) = (.ok v, s.midway pre tx' env)

/-- In the middle of a transaction that began in `s`, the sequence makes the calls `ws` with the trace `evs`: it ends with `v`
where they all succeed, and with TRANSPORT at the first that fails. -/
structure Proc.Transacts (s : State) (m : Proc α) (tx : Option ScratchTx) (ws : List Wanted) (evs : List PortEvent) (v : α)
    (tx' : Option ScratchTx) : Prop where
  calls : callCount evs = ws.length
  ok : ∀ pre as rest, fits ws as = true → run m (s.midway pre tx (as ++ rest)) = (.ok v, s.midway (pre ++ evs) tx' rest)
  fails : FailsAtCall s m tx ws evs

theorem midway_ran (s : State) (pre : List PortEvent) (tx : Option ScratchTx) (env rest : List Answer)
    (h : ∀ line, latched line evs = some true) : (s.midway pre tx env).ran evs rest = s.midway (pre ++ evs) tx rest := by
  simp [State.midway, State.ran, latched_append, h]

theorem midway_failedAt (s : State) (pre evs : List PortEvent) (tx : Option ScratchTx) (env : List Answer) (j : Nat)
    (rest : List Answer) : (s.midway pre tx env).failedAt evs j rest =
      { s.failedAt (pre ++ evs) (callCount pre + j) rest with tx := tx } := by
  rw [failedAt_append_right]
  simp [State.midway, State.failedAt]

theorem midway_of_quiet (hcs : s.cs = false) (htx : s.tx = none) : s.midway [] none s.env = s := by
  cases s
  simp_all [State.midway]

section
variable {m : Proc α} {f : α → Proc β} {v : α} {v' : β}

theorem Proc.FailsAtCall.congr (h : FailsAtCall s m tx ws evs) (hws : ws = ws') (hevs : evs = evs') :
    FailsAtCall s m tx ws' evs' := by
  rwa [← hws, ← hevs]

theorem Proc.Silent.transacts (h : Silent s m tx v tx') : Transacts s m tx [] [] v tx' where
  calls := rfl
  ok pre as rest hf := by
    obtain rfl := (fits_nil as).1 hf
    rw [List.append_nil]
    exact h pre rest
  fails := nofun

/-- A sequence of whole sections. -/
theorem Proc.Transacts.of_sections (hcalls : callCount evs = ws.length) (hlatched : ∀ line, latched line evs = some true)
    (hok : ∀ pre as rest, fits ws as = true →
      run m (s.midway pre tx (as ++ rest)) = (.ok v, (s.midway pre tx (as ++ rest)).ran evs rest))
    (hfails : ∀ pre j as a rest, j < ws.length → fits (ws.take j) as = true → a.status ≠ 0 →
      run m (s.midway pre tx (as ++ a :: rest)) =
        (.error (.err .transport), (s.midway pre tx (as ++ a :: rest)).failedAt evs j rest)) :
    Transacts s m tx ws evs v tx where
  calls := hcalls
  ok pre as rest hf := by rw [hok pre as rest hf, midway_ran s _ _ _ _ hlatched]
  fails pre j as a rest hj hf hfail := ⟨tx, by rw [hfails pre j as a rest hj hf hfail, midway_failedAt]⟩

/-- What follows the calls does not matter where one of them fails. -/
theorem Proc.FailsAtCall.bind (h : FailsAtCall s m tx ws evs) (f : α → Proc β) : FailsAtCall s (m >>= f) tx ws evs := by
  intro pre j as a rest hj hf hfail
  obtain ⟨tx', hrun⟩ := h pre j as a rest hj hf hfail
  exact ⟨tx', run_bind_error hrun⟩

theorem Proc.Transacts.bind_fails (hm : Transacts s m tx ws evs v tx') (hf : FailsAtCall s (f v) tx' ws' evs') :
    FailsAtCall s (m >>= f) tx (ws ++ ws') (evs ++ evs') := by
  intro pre j as a rest hj hfits hfail
  obtain hfirst | hsecond := Nat.lt_or_ge j ws.length
  · rw [List.take_append_of_le_length hfirst.le] at hfits
    rw [← List.append_assoc, failedAt_append_left s _ _ (by rw [callCount_append, hm.calls]; omega)]
    exact hm.fails.bind f pre j as a rest hfirst hfits hfail
  · obtain ⟨k, rfl⟩ := Nat.exists_eq_add_of_le hsecond
    rw [List.take_length_add_append, fits_append] at hfits
    obtain ⟨as1, as2, rfl, hfits1, hfits2⟩ := hfits
    rw [List.length_append] at hj
    obtain ⟨tx'', hrun⟩ := hf (pre ++ evs) k as2 a rest (by omega) hfits2 hfail
    rw [callCount_append, hm.calls, List.append_assoc, Nat.add_assoc] at hrun
    rw [List.append_assoc, run_bind_ok (hm.ok pre as1 _ hfits1)]
    exact ⟨tx'', hrun⟩

theorem Proc.Transacts.bind (hm : Transacts s m tx ws evs v tx') (hf : Transacts s (f v) tx' ws' evs' v' tx'') :
    Transacts s (m >>= f) tx (ws ++ ws') (evs ++ evs') v' tx'' where
  calls := by rw [callCount_append, List.length_append, hm.calls, hf.calls]
  ok pre as rest hfits := by
    obtain ⟨as1, as2, rfl, hfits1, hfits2⟩ := (fits_append ..).1 hfits
    rw [List.append_assoc, run_bind_ok (hm.ok pre as1 _ hfits1), hf.ok _ as2 rest hfits2, List.append_assoc]
  fails := hm.bind_fails hf.fails

theorem Proc.Transacts.bind_silent (hm : Transacts s m tx ws evs v tx') (hf : Silent s (f v) tx' v' tx'') :
    Transacts s (m >>= f) tx ws evs v' tx'' := by
  have h := hm.bind hf.transacts
  rwa [List.append_nil, List.append_nil] at h

theorem Proc.Silent.bind_fails (hm : Silent s m tx v tx') (hf : FailsAtCall s (f v) tx' ws evs) :
    FailsAtCall s (m >>= f) tx ws evs := hm.transacts.bind_fails hf

theorem Proc.Silent.bind (hm : Silent s m tx v tx') (hf : Transacts s (f v) tx' ws evs v' tx'') :
    Transacts s (m >>= f) tx ws evs v' tx'' := hm.transacts.bind hf

/-- The scratchpad transaction exists while the sequence runs, and is discarded where a call of it fails. -/
theorem Proc.FailsAtCall.withTx {ta : Half} {data : List Byte}
    (h : FailsAtCall s m (some ⟨ta, data, cfg.crcInit, []⟩) ws evs) : FailsAtCall s (withTx ta data m) none ws evs := by
  intro pre j as a rest hj hf hfail
  obtain ⟨tx', hrun⟩ := h pre j as a rest hj hf hfail
  have hopen : { s.midway pre none (as ++ a :: rest) with tx := some ⟨ta, data, cfg.crcInit, []⟩ } =
      s.midway pre (some ⟨ta, data, cfg.crcInit, []⟩) (as ++ a :: rest) := rfl
  rw [run_withTx, hopen, hrun]
  exact ⟨none, rfl⟩

end

/-! ### Bytes and resets in a transaction -/

open Proc

theorem silent_pure (s : State) (tx : Option ScratchTx) (v : α) : Silent s (pure v) tx v tx := fun _ _ => rfl

theorem silent_updateTx (s : State) (t : ScratchTx) (f : ScratchTx → ScratchTx) :
    Silent s (updateTx f) (some t) () (some (f t)) := fun _ _ => rfl

theorem silent_look_txValue (s : State) (t : ScratchTx) : Silent s (look State.txValue) (some t) t (some t) := fun _ _ => rfl

theorem transacts_writeByte (s : State) (tx : Option ScratchTx) (p : Prof) (x : Byte) :
    Transacts s (writeByte p x) tx (bytesWritten 1) (byteWriteTrace p x) () tx := by
  refine .of_sections ?_ (fun line => ?_) (fun pre as rest hf => run_writeByte_ok p x rfl hf)
    fun pre j as a rest hj hf hfail => run_writeByte_failedAt p x hj hf hfail rfl
  · rw [byteWriteTrace, callCount_cons, callCount_append, callCount_flatMap (callCount_writeSlotTrace p.timing)]
    rfl
  · rw [byteWriteTrace, latched, latched_append, latched_flatMap (latched_writeSlotTrace p.timing)]
    rfl

theorem transacts_writeBytes (s : State) (tx : Option ScratchTx) (p : Prof) (xs : List Byte) :
    Transacts s (writeBytes p xs) tx (bytesWritten xs.length) (bytesWriteTrace p xs) () tx := by
  induction xs with
  | nil => exact (silent_pure s tx ()).transacts
  | cons x xs ih =>
    rw [List.length_cons, Nat.add_comm, bytesWritten_add]
    exact (transacts_writeByte s tx p x).bind ih

theorem transacts_readByte (hacc : s.acc = none) (tx : Option ScratchTx) (p : Prof) (x : Byte) :
    Transacts s (readByte p) tx (bytesRead [x]) (byteReadTrace p) x tx :=
  .of_sections rfl (fun _ => rfl) (fun _ _ _ hf => run_readByte_keep p hacc rfl hf)
    fun _ _ _ _ _ hj hf hfail => run_readByte_failedAt p x hacc hj hf hfail rfl

theorem bytesRead_cons (x : Byte) (xs : List Byte) : bytesRead (x :: xs) = bytesRead [x] ++ bytesRead xs := by
  simp [bytesRead]

theorem bytesReadTrace_succ (p : Prof) (n : Nat) : bytesReadTrace p (n + 1) = byteReadTrace p ++ bytesReadTrace p n := by
  simp [bytesReadTrace, List.range_succ_eq_map, List.flatMap_map]

theorem bytesReadTrace_zero (p : Prof) : bytesReadTrace p 0 = [] := rfl

theorem failsAtCall_readBytes (hacc : s.acc = none) (tx : Option ScratchTx) (p : Prof) (xs : List Byte) :
    FailsAtCall s (readBytes p xs.length) tx (bytesRead xs) (bytesReadTrace p xs.length) := by
  induction xs with
  | nil => exact nofun
  | cons x xs ih =>
    rw [bytesRead_cons, List.length_cons, bytesReadTrace_succ]
    exact (transacts_readByte hacc tx p x).bind_fails (ih.bind _)

theorem transacts_busReset (hpolls : s.polls = none) (tx : Option ScratchTx) {p : Prof} {k1 k2 : Nat}
    (hk : PollsWithin p k1 k2) : Transacts s (busReset p) tx (resetPresent k1 k2) (resetTrace p (k1 + k2)) () tx := by
  refine .of_sections ?_ (fun line => ?_) (fun pre as rest hf => run_busReset_ok p hpolls hk rfl hf)
    fun pre j as a rest hj hf hfail => run_busReset_failedAt hk hpolls hj hf hfail rfl
  · obtain ⟨hk1, -, hk2, -⟩ := hk
    rw [resetTrace_eq, callCount_cons, callCount_append, callCount_append, callCount_pollsTrace, resetPresent_eq,
      List.length_cons, List.length_cons, List.length_append, length_phaseSamples _ hk1, length_phaseSamples _ hk2]
    show 0 + (2 + (k1 + k2) + 0) = k1 + k2 + 1 + 1
    omega
  · rw [resetTrace_eq, latched, latched_append, latched_append, latched_pollsTrace]
    rfl

/-! ### Addressing -/

theorem silent_readMode (hreadable : s.modeReadable = true) (tx : Option ScratchTx) :
    Silent s readMode tx s.mode tx := fun pre env =>
  (run_readMode (s.midway pre tx env)).trans (if_pos hreadable)

theorem silent_readRom (hreadable : s.romReadable = true) (tx : Option ScratchTx) : Silent s readRom tx s.rom tx :=
  fun pre env => (run_readRom (s.midway pre tx env)).trans (if_pos hreadable)

theorem transacts_sendRom (hreadable : s.romReadable = true) (tx : Option ScratchTx) (p : Prof) :
    Transacts s (sendRom p) tx (bytesWritten 8) (bytesWriteTrace p s.rom.toList) () tx :=
  (silent_readRom hreadable tx).bind (transacts_writeBytes s tx p s.rom.toList)

/-- The reset and the command byte of a mode that sends no ROM. -/
theorem transacts_resetCommand (hpolls : s.polls = none) (tx : Option ScratchTx) {p : Prof} {k1 k2 : Nat}
    (hk : PollsWithin p k1 k2) (q : Prof) (x : Byte) (v : α) :
    Transacts s (busReset p >>= fun _ => writeByte q x >>= fun _ => pure v) tx (resetPresent k1 k2 ++ bytesWritten 1)
      (resetTrace p (k1 + k2) ++ byteWriteTrace q x) v tx :=
  (transacts_busReset hpolls tx hk).bind ((transacts_writeByte s tx q x).bind_silent (silent_pure s tx v))

/-- The standard reset, the command byte and the ROM. -/
theorem transacts_resetCommandRom (hpolls : s.polls = none) (hrom : s.romReadable = true) (tx : Option ScratchTx)
    {k1 k2 : Nat} (hk : PollsWithin .std k1 k2) (q : Prof) (x : Byte) (v : α) :
    Transacts s (busReset .std >>= fun _ => writeByte .std x >>= fun _ => sendRom q >>= fun _ => pure v) tx
      (resetPresent k1 k2 ++ bytesWritten 9)
      (resetTrace .std (k1 + k2) ++ (byteWriteTrace .std x ++ bytesWriteTrace q s.rom.toList)) v tx := by
  rw [show (9 : Nat) = 1 + 8 from rfl, bytesWritten_add]
  exact (transacts_busReset hpolls tx hk).bind ((transacts_writeByte s tx .std x).bind
    ((transacts_sendRom hrom tx q).bind_silent (silent_pure s tx v)))

theorem transacts_addressDevices (hpolls : s.polls = none) (tx : Option ScratchTx) {k1 k2 : Nat}
    (ha : s.Addressable k1 k2) : Transacts s addressDevices tx (addressed s.mode k1 k2)
      (addressTrace s.mode s.rom (k1 + k2)) (modeFunction s.mode) tx := by
  obtain ⟨⟨hreadable, hlegal⟩, hrom, hk⟩ := ha
  refine (silent_readMode hreadable tx).bind ?_
  rw [addressed, addressTrace]
  obtain h | h | h | h | h | h :
      s.mode.toNat = 0 ∨ s.mode.toNat = 1 ∨ s.mode.toNat = 2 ∨ s.mode.toNat = 3 ∨ s.mode.toNat = 4 ∨
        s.mode.toNat = 5 := by omega
  all_goals simp only [h, modeReset, modeCommandBytes, modeFunction, modeCommandTrace] at hk ⊢
  · exact transacts_resetCommand hpolls tx hk .std cfg.cmdSkipRom Prof.std
  · exact transacts_resetCommand hpolls tx hk .std cfg.cmdOdSkipRom Prof.od
  · exact transacts_resetCommandRom hpolls (hrom (.inl h)) tx hk .std cfg.cmdMatchRom Prof.std
  · exact transacts_resetCommandRom hpolls (hrom (.inr h)) tx hk .od cfg.cmdOdMatchRom Prof.od
  · exact transacts_resetCommand hpolls tx hk .std cfg.cmdResume Prof.std
  · exact transacts_resetCommand hpolls tx hk .od cfg.cmdResume Prof.od

/-! ### The bytes of a scratchpad transaction -/

theorem transacts_sendCounted (s : State) (t : ScratchTx) (p : Prof) (xs : List Byte) :
    Transacts s (sendCounted p xs) (some t) (bytesWritten xs.length) (bytesWriteTrace p xs) ()
      (some { t with crc := crcFrom t.crc xs }) := by
  induction xs generalizing t with
  | nil => exact (silent_pure s (some t) ()).transacts
  | cons x xs ih =>
    rw [List.length_cons, Nat.add_comm, bytesWritten_add]
    exact (transacts_writeByte s (some t) p x).bind ((silent_updateTx s t _).bind (ih { t with crc := crcUpd t.crc x }))

theorem transacts_readCounted (hacc : s.acc = none) (t : ScratchTx) (p : Prof) (x : Byte) :
    Transacts s (readCounted p) (some t) (bytesRead [x]) (byteReadTrace p) x
      (some { t with crc := crcUpd t.crc x, readback := t.readback ++ [x] }) :=
  (transacts_readByte hacc (some t) p x).bind_silent fun _ _ => rfl

theorem failsAtCall_readStatus (hacc : s.acc = none) (tx : Option ScratchTx) (p : Prof) (x : Byte) :
    FailsAtCall s (readStatus p) tx (bytesRead [x]) (byteReadTrace p) :=
  (transacts_readByte hacc tx p x).fails.bind _

theorem transacts_readDataCounted (hacc : s.acc = none) (t : ScratchTx) (p : Prof) (xs : List Byte) :
    Transacts s (readDataCounted p xs.length) (some t) (bytesRead xs) (bytesReadTrace p xs.length) ()
      (some { t with crc := crcFrom t.crc xs, data := t.data ++ xs }) := by
  induction xs generalizing t with
  | nil =>
    rw [List.append_nil]
    exact (silent_pure s (some t) ()).transacts
  | cons x xs ih =>
    have h := ih { t with crc := crcUpd t.crc x, data := t.data ++ [x] }
    rw [List.append_assoc] at h
    rw [bytesRead_cons, List.length_cons, bytesReadTrace_succ]
    exact (transacts_readByte hacc (some t) p x).bind ((silent_updateTx s t _).bind ((silent_updateTx s _ _).bind h))

theorem silent_checkCrc (s : State) {t : ScratchTx} (hcrc : t.crc = 0xB001) : Silent s checkCrc (some t) () (some t) := by
  have haccepts : crcAccepts t.crc = true := by rw [hcrc]; rfl
  intro pre env
  rw [checkCrc, run_bind_ok (silent_look_txValue s t pre env), haccepts]
  rfl

theorem transacts_sendWriteScratchpad (s : State) (p : Prof) (addr : Half) (data : Bytes8) :
    Transacts s (sendWriteScratchpad p) (some ⟨addr, data.toList, cfg.crcInit, []⟩) (bytesWritten 11)
      (bytesWriteTrace p ([0x0F, lo8 addr, hi8 addr] ++ data.toList)) ()
      (some ⟨addr, data.toList, crc16 ([0x0F, lo8 addr, hi8 addr] ++ data.toList), []⟩) :=
  (silent_look_txValue s _).bind (transacts_sendCounted s _ p ([0x0F, lo8 addr, hi8 addr] ++ data.toList))

theorem transacts_delayMs (s : State) (tx : Option ScratchTx) (n : Nat) :
    Transacts s (delayMs n) tx [] [.dms n] () tx where
  calls := rfl
  ok pre as rest hf := by
    obtain rfl := (fits_nil as).1 hf
    rw [run_delayMs]
    simp [State.midway, State.emit, latched_append, latched]
  fails := nofun

theorem failsAtCall_copyFrame (hacc : s.acc = none) (t : ScratchTx) (p : Prof) (x : Byte) :
    FailsAtCall s (copyFrame p) (some t) (bytesWritten 4 ++ bytesRead [x])
      (bytesWriteTrace p [0x55, lo8 t.ta, hi8 t.ta, 0x07] ++ ([.dms 10] ++ byteReadTrace p)) :=
  (silent_look_txValue s t).bind_fails <|
    (transacts_writeBytes s (some t) p [0x55, lo8 t.ta, hi8 t.ta, 0x07]).bind_fails <|
      (transacts_delayMs s (some t) 10).bind_fails ((failsAtCall_readStatus hacc (some t) p x).bind _)

/-! ### Whole transactions -/

theorem silent_checkHandleInit (hs : s.Ready) (tx : Option ScratchTx) : Silent s checkHandleInit tx () tx :=
  fun pre env => run_checkHandleInit_of_ready (s := s.midway pre tx env) hs

theorem silent_addressedPrelude {check : Proc Unit} (hs : s.Ready) (hmode : s.ModeLegal)
    (hcheck : ∀ t, Proc.run check t = (.ok (), t)) (tx : Option ScratchTx) :
    Silent s (addressedPrelude check) tx () tx :=
  fun pre env => run_addressedPrelude_ok (s := s.midway pre tx env) hs (hcheck _) hmode

/-- As `runHost_of_run_error`, whatever the body has changed before it ends. -/
theorem runHost_of_error {status : Cause → Byte} {body : Proc Output} {c : Cause} {t : State}
    (h : Proc.run body s = (.error (.err c), t)) :
    runHost status body s = .next (t.reply (hostReply (status c) c .none)) := by
  rw [runHost, h]
  rfl

/-- An instruction that runs one sequence, and ends with TRANSPORT where the sequence does. -/
theorem failingCallEnds_of_failsAtCall {m : Proc α} {i : Instr} {r : Reply} (hquiet : s.Quiet) (hbuilt : Built none m)
    (h : FailsAtCall s m none ws evs)
    (hexec : ∀ t, Proc.run m s = (.error (.err .transport), t) → exec i s = .next (t.reply r)) :
    FailingCallEnds s ws evs i r := by
  obtain ⟨hcs, htx, -⟩ := hquiet
  intro j as a rest hj hf hfail henv
  obtain ⟨tx', hrun⟩ := h [] j as a rest hj hf hfail
  rw [← henv, midway_of_quiet hcs htx, callCount, List.countP_nil, Nat.zero_add, List.nil_append] at hrun
  have hnone : tx' = none := by
    have habsent : (Proc.run m s).2.tx = none := (hbuilt.kept s).absent .tx nofun htx
    rwa [hrun] at habsent
  rw [hexec _ hrun, hnone, ← htx]
  rfl

theorem failsAtCall_romMatchBody (hpolls : s.polls = none) (hs : s.Ready) (hrom : s.romReadable = true) {k1 k2 : Nat}
    (hk : PollsWithin .std k1 k2) : FailsAtCall s romMatchBody none (resetPresent k1 k2 ++ bytesWritten 9)
      (resetTrace .std (k1 + k2) ++ byteWriteTrace .std 0x69 ++ bytesWriteTrace .od s.rom.toList) := by
  rw [List.append_assoc]
  exact (silent_checkHandleInit hs none).bind_fails
    (transacts_resetCommandRom hpolls hrom none hk .od cfg.cmdOdMatchRom Output.none).fails

section
variable {k1 k2 : Nat} (hacc : s.acc = none) (hpolls : s.polls = none) (ha : s.Addressable k1 k2)
include hacc hpolls ha

theorem failsAtCall_writeScratchpadBody (hs : s.Ready) {addr : Half} (halign : addr.toNat % 8 = 0)
    (hbelow : addr.toNat < 0x80) (data : Bytes8) (lo hi x : Byte) :
    FailsAtCall s (writeScratchpadBody addr data) none
      (addressed s.mode k1 k2 ++ bytesWritten 11 ++ bytesRead [lo, hi, x])
      (addressTrace s.mode s.rom (k1 + k2)
        ++ bytesWriteTrace (modeFunction s.mode) ([0x0F, lo8 addr, hi8 addr] ++ data.toList)
        ++ bytesReadTrace (modeFunction s.mode) 3) := by
  have ⟨hmode, _, _⟩ := ha
  refine .congr ((silent_addressedPrelude hs hmode (run_checkPage_of_page_below halign hbelow) none).bind_fails <|
    FailsAtCall.bind (FailsAtCall.withTx <| (transacts_addressDevices hpolls _ ha).bind_fails <|
      (transacts_sendWriteScratchpad s _ addr data).bind_fails <| (transacts_readCounted hacc _ _ lo).bind_fails <|
        (transacts_readCounted hacc _ _ hi).bind_fails <| (failsAtCall_readStatus hacc _ _ x).bind _) _) ?_ ?_
  · simp [bytesRead]
  · simp [bytesReadTrace_succ, bytesReadTrace_zero]

theorem failsAtCall_copyScratchpadBody (hs : s.Ready) {addr : Half} (halign : addr.toNat % 8 = 0)
    (hbelow : addr.toNat < 0x80) (x : Byte) :
    FailsAtCall s (copyScratchpadBody addr) none (addressed s.mode k1 k2 ++ bytesWritten 4 ++ bytesRead [x])
      (addressTrace s.mode s.rom (k1 + k2) ++ bytesWriteTrace (modeFunction s.mode) [0x55, lo8 addr, hi8 addr, 0x07]
        ++ [.dms 10] ++ byteReadTrace (modeFunction s.mode)) := by
  have ⟨hmode, _, _⟩ := ha
  have hframe := (transacts_addressDevices hpolls _ ha).bind_fails
    (failsAtCall_copyFrame hacc ⟨addr, [], cfg.crcInit, []⟩ (modeFunction s.mode) x)
  simp only [List.append_assoc]
  exact (silent_addressedPrelude hs hmode (run_checkPage_of_page_below halign hbelow) none).bind_fails
    (hframe.withTx.bind _)

/-- The 14 bytes read are the three of the header, the eight of data, the two of the CRC and the trailing one (R280). -/
theorem failsAtCall_readScratchpadBody (hs : s.Ready) {bs : List Byte} (hbs : bs.length = 14) :
    FailsAtCall s readScratchpadBody none (addressed s.mode k1 k2 ++ bytesWritten 1 ++ bytesRead bs)
      (addressTrace s.mode s.rom (k1 + k2) ++ byteWriteTrace (modeFunction s.mode) 0xAA
        ++ bytesReadTrace (modeFunction s.mode) 14) := by
  have ⟨hmode, _, _⟩ := ha
  obtain ⟨t0, t1, es, d, c0, c1, x, rfl, hd⟩ : ∃ t0 t1 es d c0 c1 x,
      bs = [t0, t1, es] ++ d ++ [c0, c1, x] ∧ d.length = 8 := by
    match bs, hbs with
    | [t0, t1, es, d0, d1, d2, d3, d4, d5, d6, d7, c0, c1, x], _ =>
      exact ⟨t0, t1, es, [d0, d1, d2, d3, d4, d5, d6, d7], c0, c1, x, rfl, rfl⟩
  have hdata := fun t => transacts_readDataCounted hacc t (modeFunction s.mode) d
  rw [hd] at hdata
  refine .congr ((silent_addressedPrelude (check := noArgument) hs hmode (fun _ => rfl) none).bind_fails <|
    FailsAtCall.withTx <| (transacts_addressDevices hpolls _ ha).bind_fails <|
      (transacts_sendCounted s _ _ [0xAA]).bind_fails <| (transacts_readCounted hacc _ _ t0).bind_fails <|
        (transacts_readCounted hacc _ _ t1).bind_fails <| (silent_updateTx s _ _).bind_fails <|
          (transacts_readCounted hacc _ _ es).bind_fails <| (hdata _).bind_fails <|
            (transacts_readCounted hacc _ _ c0).bind_fails <| (transacts_readCounted hacc _ _ c1).bind_fails <|
              (failsAtCall_readStatus hacc _ _ x).bind _) ?_ ?_
  · simp [bytesRead]
  · simp [bytesWriteTrace, bytesReadTrace_succ, bytesReadTrace_zero]

theorem failsAtCall_memoryRead (addr : Half) (bs : List Byte) :
    FailsAtCall s (memoryRead addr bs.length) none (addressed s.mode k1 k2 ++ bytesWritten 3 ++ bytesRead bs)
      (addressTrace s.mode s.rom (k1 + k2) ++ bytesWriteTrace (modeFunction s.mode) [0xF0, lo8 addr, hi8 addr]
        ++ bytesReadTrace (modeFunction s.mode) bs.length) := by
  rw [List.append_assoc, List.append_assoc]
  exact (transacts_addressDevices hpolls none ha).bind_fails <|
    (transacts_writeBytes s none _ [cfg.cmdReadMemory, lo8 addr, hi8 addr]).bind_fails (failsAtCall_readBytes hacc none _ bs)

/-- Both sessions: the first is past its CRC check, which needs no call, before the second begins (R290). -/
theorem failsAtCall_pageWrite (addr : Half) (data : Bytes8) (lo hi x : Byte) {k3 k4 : Nat}
    (hk : PollsWithin (modeReset s.mode) k3 k4)
    (hcrc : crc16 ([0x0F, lo8 addr, hi8 addr] ++ data.toList ++ [lo, hi]) = 0xB001) :
    FailsAtCall s (pageWrite addr data.toList) none
      (addressed s.mode k1 k2 ++ bytesWritten 11 ++ bytesRead [lo, hi] ++ addressed s.mode k3 k4 ++ bytesWritten 4
        ++ bytesRead [x])
      (addressTrace s.mode s.rom (k1 + k2)
        ++ bytesWriteTrace (modeFunction s.mode) ([0x0F, lo8 addr, hi8 addr] ++ data.toList)
        ++ bytesReadTrace (modeFunction s.mode) 2 ++ addressTrace s.mode s.rom (k3 + k4)
        ++ bytesWriteTrace (modeFunction s.mode) [0x55, lo8 addr, hi8 addr, 0x07] ++ [.dms 10]
        ++ byteReadTrace (modeFunction s.mode)) := by
  have ⟨hmode, hrom, _⟩ := ha
  have hcrc : crcFrom (crc16 ([0x0F, lo8 addr, hi8 addr] ++ data.toList)) [lo, hi] = 0xB001 := by
    rwa [crc16, crcFrom, List.foldl_append] at hcrc
  refine .congr (FailsAtCall.withTx <| (transacts_addressDevices hpolls _ ha).bind_fails <|
    (transacts_sendWriteScratchpad s _ addr data).bind_fails <| (transacts_readCounted hacc _ _ lo).bind_fails <|
      (transacts_readCounted hacc _ _ hi).bind_fails <| (silent_checkCrc s hcrc).bind_fails <|
        (transacts_addressDevices hpolls _ ⟨hmode, hrom, hk⟩).bind_fails (failsAtCall_copyFrame hacc _ _ x)) ?_ ?_
  · simp [bytesRead]
  · simp [bytesReadTrace_succ, bytesReadTrace_zero]

end

/-- Settles O54: each instruction's one sequence is a frame whose parts are described above. -/
theorem failingCallEndsTheTransaction : Obligations.FailingCallEndsTheTransaction := by
  intro s k1 k2 P ws0 evs0 hquiet
  have ⟨_, _, _, hacc, hpolls, _⟩ := hquiet
  refine ⟨fun hs hrom hk => ?_, ?_⟩
  · exact failingCallEnds_of_failsAtCall hquiet built_romMatchBody (failsAtCall_romMatchBody hpolls hs hrom hk)
      fun _ h => runHost_of_error h
  · rintro ha rfl rfl rfl
    refine ⟨?_, fun addr data lo hi x hs halign hbelow => ⟨?_, ?_⟩, fun bs hs hbs => ?_, fun addr len bs hbs => ?_,
      fun addr data lo hi x k3 k4 hk hcrc => ?_⟩
    · exact failingCallEnds_of_failsAtCall hquiet built_addressDevices (transacts_addressDevices hpolls none ha).fails
        fun _ h => runMicro_bind_of_run_error h
    · exact failingCallEnds_of_failsAtCall hquiet (built_writeScratchpadBody addr data)
        (failsAtCall_writeScratchpadBody hacc hpolls ha hs halign hbelow data lo hi x) fun _ h => runHost_of_error h
    · exact failingCallEnds_of_failsAtCall hquiet (built_copyScratchpadBody addr)
        (failsAtCall_copyScratchpadBody hacc hpolls ha hs halign hbelow x) fun _ h => runHost_of_error h
    · exact failingCallEnds_of_failsAtCall hquiet built_readScratchpadBody
        (failsAtCall_readScratchpadBody hacc hpolls ha hs hbs) fun _ h => runHost_of_error h
    · rw [← hbs]
      refine failingCallEnds_of_failsAtCall hquiet (built_memoryRead addr bs.length)
        (failsAtCall_memoryRead hacc hpolls ha addr bs) fun _ h => ?_
      rw [hbs] at h
      exact runMicro_bind_of_run_error h
    · exact failingCallEnds_of_failsAtCall hquiet (built_pageWrite addr data.toList)
        (failsAtCall_pageWrite hacc hpolls ha addr data lo hi x hk hcrc) fun _ h => microUnit_of_run_error h

end Sys2Proof.Machine
end

section
/-! The ROM search whatever the environment answers (44_rom_search.md R240 to R250): the checks of SEARCH_ROM, what a pair of
samples decides, and what every part of a search keeps: the discrepancy stack strictly increasing within 1 to 64, and no more
identifiers than passes. -/

namespace Sys2Proof.Machine

variable {α β : Type} {s t : State} {k k' k'' : Nat}

/-! ### SEARCH_ROM and its engine -/

/-- The capacity check compares with `MAX_SEARCH`, 64 (log 17). -/
theorem run_checkCapacity (n : Byte) (s : State) :
    Proc.run (require (n.toNat ≤ cfg.maxSearch) .argRange) s =
      if n.toNat ≤ 64 then (.ok (), s) else (.error (.err .argRange), s) := by
  rw [run_require]
  simp only [decide_eq_true_eq]
  rfl

theorem runHost_of_run_ok {status : Cause → Byte} {body : Proc Output} {out : Output} (h : Proc.run body s = (.ok out, t)) :
    runHost status body s = .next (t.reply (hostReply 0 .ok out)) := by
  rw [runHost, h]
  rfl

/-- Past its checks SEARCH_ROM is the engine with the search command (R240). -/
theorem run_searchRomBody_of_ready {n : Byte} (hs : s.Ready) (hn : n.toNat ≤ 64) :
    Proc.run (searchRomBody n) s = Proc.run (searchEngine n.toNat 0xF0 >>= fun found =>
      pure (.search (BitVec.ofNat 8 found.length) found)) s := by
  have hcapacity := (run_checkCapacity n s).trans (if_pos hn)
  rw [searchRomBody, Proc.run_bind_ok (run_checkHandleInit_of_ready hs), Proc.run_bind_ok hcapacity]
  rfl

theorem exec_searchRom_of_run_ok {n : Byte} {found : List Bytes8} (hs : s.Ready) (hn : n.toNat ≤ 64)
    (h : Proc.run (searchEngine n.toNat 0xF0) s = (.ok found, t)) :
    exec (.searchRom n) s = .next (t.reply (hostReply 0 .ok (.search (BitVec.ofNat 8 found.length) found))) := by
  refine runHost_of_run_ok ?_
  rw [run_searchRomBody_of_ready hs hn, Proc.run_bind_ok h, Proc.run_pure]

theorem exec_searchRom_of_run_error {n : Byte} {c : Cause} (hs : s.Ready) (hn : n.toNat ≤ 64)
    (h : Proc.run (searchEngine n.toNat 0xF0) s = (.error (.err c), t)) :
    exec (.searchRom n) s = .next (t.reply (hostReply (HostOp.status .searchRom c) c .none)) := by
  refine runHost_of_error ?_
  rw [run_searchRomBody_of_ready hs hn, Proc.run_bind_error h]

theorem exec_searchEngine_of_run_ok {n cmd : Byte} {found : List Bytes8}
    (h : Proc.run (searchEngine n.toNat cmd) s = (.ok found, t)) :
    exec (.searchEngine n cmd) s = .next (t.reply (.micro (.ok (.roms found)))) :=
  runMicro_bind_pure_of_run_ok (fun found => .ok (.roms found)) h

theorem exec_searchEngine_of_run_error {n cmd : Byte} {c : Cause}
    (h : Proc.run (searchEngine n.toNat cmd) s = (.error (.err c), t)) :
    exec (.searchEngine n cmd) s = .next (t.reply (.micro (.err c))) :=
  runMicro_bind_of_run_error h

/-- Settles O39: a capacity above 64 fails the check, and with capacity 0 the engine runs no pass. -/
theorem searchChecksItsCapacity : Obligations.SearchChecksItsCapacity := by
  intro n s hs
  refine ⟨fun hn => ?_, ?_⟩
  · have hcapacity := (run_checkCapacity n s).trans (if_neg (Nat.not_le.2 hn))
    refine runHost_of_run_error (status := HostOp.status .searchRom) (body := searchRomBody n) (c := .argRange) ?_
    rw [searchRomBody, Proc.run_bind_ok (run_checkHandleInit_of_ready hs), Proc.run_bind_error hcapacity]
  · rintro rfl
    exact exec_searchRom_of_run_ok (n := 0) hs (Nat.zero_le 64) rfl

/-! ### The discrepancy stack -/

theorem StackIncreasing.length_le {stk : List Nat} (h : StackIncreasing stk) : stk.length ≤ 64 := by
  obtain ⟨hlt, hrange⟩ := h
  have hsub : stk ⊆ List.range' 1 64 := fun p hp => by
    have := hrange p hp
    rw [List.mem_range'_1]
    omega
  have hnodup : stk.Nodup := hlt.imp Nat.ne_of_lt
  simpa using (List.subperm_of_subset hnodup hsub).length_le

theorem StackIncreasing.dropLast {stk : List Nat} (h : StackIncreasing stk) : StackIncreasing stk.dropLast := by
  obtain ⟨hlt, hrange⟩ := h
  exact ⟨hlt.sublist (List.dropLast_sublist stk), fun p hp => hrange p (List.mem_of_mem_dropLast hp)⟩

theorem StackIncreasing.push {stk : List Nat} {p : Nat} (h : StackIncreasing stk) (htop : stackTop stk < p) (hp : p ≤ 64) :
    StackIncreasing (stk ++ [p]) := by
  obtain ⟨hlt, hrange⟩ := h
  have hbelow : ∀ x ∈ stk, x < p := by
    obtain rfl | ⟨init, top, rfl⟩ := stk.eq_nil_or_concat'
    · nofun
    · have htop : top < p := by simpa [stackTop] using htop
      obtain ⟨-, -, hinit⟩ := List.pairwise_append.1 hlt
      intro x hx
      obtain hx | hx := List.mem_append.1 hx
      · exact (hinit x hx top (List.mem_singleton_self top)).trans htop
      · exact List.mem_singleton.1 hx ▸ htop
  refine ⟨List.pairwise_append.2 ⟨hlt, List.pairwise_singleton _ _, by simpa using hbelow⟩, ?_⟩
  simp only [List.forall_mem_append, List.forall_mem_singleton]
  exact ⟨hrange, by omega, hp⟩

theorem StackIncreasing.length_lt_of_top {stk : List Nat} {p : Nat} (h : StackIncreasing stk) (hp : p ≤ 64)
    (htop : stackTop stk < p) : stk.length < 64 := by
  have hlength := (h.push htop hp).length_le
  rwa [List.length_append] at hlength

/-! ### What a pair of samples decides -/

/-- The direction and the next stack that `DECIDE(p, b, c)` chooses (R244, R245). -/
def Search.decided (q : Search) (p : Nat) (b c : Bool) : Bool × List Nat :=
  if b = false ∧ c = false then
    if stackTop q.stk < p then (false, q.stk ++ [p])
    else if p < stackTop q.stk then (romBit q.prev p, q.stk)
    else (true, q.stk.dropLast)
  else (b, q.stk)

/-- The search state with another stack. -/
def Search.withStk (q : Search) (stk : List Nat) : Search := { q with stk := stk }

theorem Search.decided_increasing {q : Search} {p : Nat} (b c : Bool) (h : StackIncreasing q.stk) (hp : p ≤ 64) :
    StackIncreasing (q.decided p b c).2 := by
  unfold Search.decided
  split_ifs with _ htop _
  · exact h.push htop hp
  · exact h
  · exact h.dropLast
  · exact h

/-- The choice is made in the search state; a push needs room on the stack (R246). -/
theorem run_decideDirection {q : Search} {p : Nat} (b c : Bool) (hs : s.search = some q)
    (hroom : stackTop q.stk < p → q.stk.length < 64) :
    Proc.run (decideDirection p b c) s =
      (.ok (q.decided p b c).1, { s with search := some (q.withStk (q.decided p b c).2) }) := by
  have hsame : { s with search := some q } = s := by rw [← hs]
  have hvalue : s.searchValue = q := by rw [State.searchValue, hs]; rfl
  unfold decideDirection Search.decided
  split_ifs with hpair htop hbelow
  · have hpush : Proc.run (pushDiscrepancy p) s = (.ok (), { s with search := some (q.withStk (q.stk ++ [p])) }) := by
      rw [pushDiscrepancy, Proc.run_bind_ok (Proc.run_look _ _), hvalue]
      refine (congrArg (Proc.run · s) (if_pos (hroom htop))).trans ?_
      rw [updateSearch, Proc.run_update, hvalue]
      rfl
    rw [decideDiscrepancy, Proc.run_bind_ok (Proc.run_look _ _), hvalue, if_pos htop, Proc.run_bind_ok hpush, Proc.run_pure]
  · rw [decideDiscrepancy, Proc.run_bind_ok (Proc.run_look _ _), hvalue, if_neg htop, if_pos hbelow, Proc.run_pure]
    exact congrArg (Except.ok _, ·) hsame.symm
  · rw [decideDiscrepancy, Proc.run_bind_ok (Proc.run_look _ _), hvalue, if_neg htop, if_neg hbelow, popDiscrepancy,
      updateSearch, Proc.run_bind_ok (Proc.run_update _ _), Proc.run_pure, hvalue]
    rfl
  · exact congrArg (Except.ok _, ·) hsame.symm

/-! ### Slots, bytes and resets leave the search state alone -/

/-- The sequence runs the same whatever the search state, and leaves it. -/
def Proc.IgnoresSearch (m : Proc α) : Prop :=
  ∀ (s : State) (x : Option Search), run m { s with search := x } = ((run m s).1, { (run m s).2 with search := x })

theorem Proc.IgnoresSearch.search_eq {m : Proc α} (h : IgnoresSearch m) (s : State) : (run m s).2.search = s.search :=
  congrArg (fun r => r.2.search) (h s s.search)

theorem Proc.ignoresSearch_pure (a : α) : IgnoresSearch (pure a : Proc α) := fun _ _ => rfl

theorem Proc.ignoresSearch_bind {m : Proc α} {f : α → Proc β} (hm : IgnoresSearch m) (hf : ∀ a, IgnoresSearch (f a)) :
    IgnoresSearch (m >>= f) := by
  intro s x
  rw [run_bind, run_bind, hm s x]
  rcases run m s with ⟨_ | a, t⟩
  · rfl
  · exact hf a t x

/-- A sequence run between two changes of state that do not touch the search state, the second made on every exit. -/
theorem Proc.ignoresSearch_enclosed {m : Proc α} {enter leave : State → State}
    (henter : ∀ (s : State) x, enter { s with search := x } = { enter s with search := x })
    (hleave : ∀ (s : State) x, leave { s with search := x } = { leave s with search := x }) (hm : IgnoresSearch m) :
    IgnoresSearch (update enter >>= fun _ => m.ensuring leave) := by
  intro s x
  rw [run_bind_ok (run_update _ _), run_bind_ok (run_update _ _), run_ensuring, run_ensuring, henter, hm, hleave]

open Proc

theorem ignoresSearch_callOr (e : PortEvent) (c : Cause) : IgnoresSearch (callOr e c) := by
  intro s x
  have hanswer : (({ s with search := x } : State).emit e).answer = (s.emit e).answer := rfl
  rw [run_callOr, run_callOr, hanswer]
  split <;> rfl

theorem ignoresSearch_busWrite (b : Bool) : IgnoresSearch (busWrite b) :=
  ignoresSearch_bind (ignoresSearch_callOr _ _) fun _ _ _ => rfl

theorem ignoresSearch_busRead : IgnoresSearch busRead :=
  ignoresSearch_bind (ignoresSearch_callOr _ _) fun _ => ignoresSearch_pure _

theorem ignoresSearch_delayUs (n : Nat) : IgnoresSearch (delayUs n) := fun _ _ => rfl

theorem ignoresSearch_critical {m : Proc α} (hm : IgnoresSearch m) : IgnoresSearch (critical m) :=
  ignoresSearch_enclosed (fun _ _ => rfl) (fun _ _ => rfl) hm

theorem ignoresSearch_writeSlot (P : Profile) (b : Bool) : IgnoresSearch (writeSlot P b) :=
  ignoresSearch_bind (ignoresSearch_busWrite _) fun _ => ignoresSearch_bind (ignoresSearch_delayUs _) fun _ =>
    ignoresSearch_bind (ignoresSearch_busWrite _) fun _ => ignoresSearch_delayUs _

theorem ignoresSearch_readSlot (P : Profile) : IgnoresSearch (readSlot P) :=
  ignoresSearch_bind (ignoresSearch_busWrite _) fun _ => ignoresSearch_bind (ignoresSearch_delayUs _) fun _ =>
    ignoresSearch_bind (ignoresSearch_busWrite _) fun _ => ignoresSearch_bind (ignoresSearch_delayUs _) fun _ =>
      ignoresSearch_bind ignoresSearch_busRead fun _ => ignoresSearch_bind (ignoresSearch_delayUs _) fun _ =>
        ignoresSearch_pure _

theorem ignoresSearch_writeSlots (P : Profile) : ∀ bs, IgnoresSearch (writeSlots P bs)
  | [] => ignoresSearch_pure _
  | _ :: bs => ignoresSearch_bind (ignoresSearch_writeSlot _ _) fun _ => ignoresSearch_writeSlots P bs

theorem ignoresSearch_writeByte (p : Prof) (x : Byte) : IgnoresSearch (writeByte p x) :=
  ignoresSearch_critical (ignoresSearch_writeSlots _ _)

theorem ignoresSearch_pollLoop (P : Profile) (want : Bool) (budget : Nat) :
    ∀ fuel, IgnoresSearch (pollLoop P want budget fuel)
  | 0 => fun _ _ => rfl
  | fuel + 1 => by
    have hcount : IgnoresSearch countPoll := fun _ _ => rfl
    have hlook : IgnoresSearch (look State.pollCount) := fun _ _ => rfl
    refine ignoresSearch_bind ignoresSearch_busRead fun v => ignoresSearch_bind hcount fun _ =>
      ignoresSearch_bind (ignoresSearch_delayUs _) fun _ => ignoresSearch_bind hlook fun k => ?_
    split
    · exact ignoresSearch_pure _
    · split
      · exact ignoresSearch_pollLoop P want budget fuel
      · exact fun _ _ => rfl

theorem ignoresSearch_pollPhase (P : Profile) (want : Bool) (budget : Nat) : IgnoresSearch (pollPhase P want budget) :=
  ignoresSearch_enclosed (fun _ _ => rfl) (fun _ _ => rfl) (ignoresSearch_pollLoop _ _ _ _)

theorem ignoresSearch_busReset (p : Prof) : IgnoresSearch (busReset p) :=
  ignoresSearch_critical <| ignoresSearch_bind (ignoresSearch_busWrite _) fun _ =>
    ignoresSearch_bind (ignoresSearch_delayUs _) fun _ => ignoresSearch_bind (ignoresSearch_busWrite _) fun _ =>
      ignoresSearch_bind (ignoresSearch_delayUs _) fun _ => ignoresSearch_bind (ignoresSearch_pollPhase _ _ _) fun _ =>
        ignoresSearch_pollPhase _ _ _

/-! ### What a search keeps -/

/-- A search is under way, its stack is as R246 describes it, and it has found at most `k` identifiers. -/
def SearchingUpTo (k : Nat) (s : State) : Prop :=
  ∃ q, s.search = some q ∧ StackIncreasing q.stk ∧ q.found.length ≤ k

/-- In a search that has found at most `k` identifiers, the sequence finds at most as many as make `k'`, keeps the stack as
R246 describes it, and ends early only in a way a reset can. -/
def Proc.Searches (k k' : Nat) (m : Proc α) : Prop :=
  ∀ s, SearchingUpTo k s → SearchingUpTo k' (run m s).2 ∧ ∀ e, (run m s).1 = .error e → e.OfReset

theorem SearchingUpTo.mono (h : SearchingUpTo k s) (hk : k ≤ k') : SearchingUpTo k' s := by
  obtain ⟨q, hq, hstk, hfound⟩ := h
  exact ⟨q, hq, hstk, hfound.trans hk⟩

theorem searches_pure (hk : k ≤ k') (a : α) : Searches k k' (pure a : Proc α) :=
  fun _ hs => ⟨hs.mono hk, nofun⟩

theorem searches_bind {m : Proc α} {f : α → Proc β} (hm : Searches k k' m) (hf : ∀ a, Searches k' k'' (f a)) (hk : k' ≤ k'') :
    Searches k k'' (m >>= f) := by
  intro s hs
  obtain ⟨hinv, hfails⟩ := hm s hs
  rcases hr : run m s with ⟨e | a, t⟩ <;> rw [hr] at hinv hfails
  · rw [run_bind_error hr]
    refine ⟨hinv.mono hk, fun e' he => hfails e' ?_⟩
    cases he
    rfl
  · rw [run_bind_ok hr]
    exact hf a t hinv

theorem searches_look (f : State → α) : Searches k k (look f) := fun _ hs => ⟨hs, nofun⟩

theorem searches_of_ignoresSearch {m : Proc α} (h : IgnoresSearch m) (hfails : FailsOnly m Stop.OfReset) :
    Searches k k m := by
  rintro s ⟨q, hq, hinv⟩
  exact ⟨⟨q, (h.search_eq s).trans hq, hinv⟩, hfails s⟩

theorem searches_critical {m : Proc α} (hm : Searches k k' m) : Searches k k' (critical m) := fun s hs => hm s.irqOff hs

theorem searches_updateSearch {f : Search → Search} (hstk : ∀ q, (f q).stk = q.stk)
    (hfound : ∀ q, q.found.length ≤ k → (f q).found.length ≤ k') : Searches k k' (updateSearch f) := by
  rintro s ⟨q, hq, hinc, hk⟩
  have hvalue : s.searchValue = q := by rw [State.searchValue, hq]; rfl
  refine ⟨⟨f q, ?_, (hstk q).symm ▸ hinc, hfound q hk⟩, nofun⟩
  rw [updateSearch, run_update, hvalue]

theorem searches_decideDirection {p : Nat} (hp : p ≤ 64) (b c : Bool) : Searches k k (decideDirection p b c) := by
  rintro s ⟨q, hq, hinc, hk⟩
  rw [run_decideDirection b c hq (hinc.length_lt_of_top hp)]
  exact ⟨⟨_, rfl, Search.decided_increasing b c hinc hp, hk⟩, nofun⟩

theorem searches_readSlot (P : Profile) : Searches k k (readSlot P) :=
  searches_of_ignoresSearch (ignoresSearch_readSlot P) (onlyTransport_readSlot P).ofReset

theorem searches_writeSlot (P : Profile) (b : Bool) : Searches k k (writeSlot P b) :=
  searches_of_ignoresSearch (ignoresSearch_writeSlot P b) (onlyTransport_writeSlot P b).ofReset

theorem onlyTransport_writeSlots (P : Profile) : ∀ bs, OnlyTransport (writeSlots P bs)
  | [] => onlyTransport_pure _
  | _ :: bs => onlyTransport_bind (onlyTransport_writeSlot _ _) fun _ => onlyTransport_writeSlots P bs

theorem searches_writeByte (p : Prof) (x : Byte) : Searches k k (writeByte p x) :=
  searches_of_ignoresSearch (ignoresSearch_writeByte p x) fun s =>
    (onlyTransport_writeSlots p.timing (wireBits x)).ofReset s.irqOff

theorem searches_busReset (p : Prof) : Searches k k (busReset p) :=
  searches_of_ignoresSearch (ignoresSearch_busReset p) (failsOnly_busReset p)

theorem searches_searchTriplet {p : Nat} (hp : p ≤ 64) : Searches k k (searchTriplet p) := by
  refine searches_critical <| searches_bind (searches_readSlot _) (fun b => searches_bind (searches_readSlot _)
    (fun c => ?_) le_rfl) le_rfl
  split
  · exact searches_pure le_rfl _
  · exact searches_bind (searches_decideDirection hp b c) (fun d => searches_bind (searches_writeSlot _ d)
      (fun _ => searches_pure le_rfl _) le_rfl) le_rfl

/-- The search state with the bit at position `p` of the candidate set where `d` is 1 (R241). -/
def Search.recorded (q : Search) (p : Nat) (d : Bool) : Search := if d then { q with cand := setRomBit q.cand p } else q

theorem recordBit_eq (p : Nat) (d : Bool) : recordBit p d = updateSearch fun q => q.recorded p d := rfl

@[simp] theorem Search.recorded_stk (q : Search) (p : Nat) (d : Bool) : (q.recorded p d).stk = q.stk := by cases d <;> rfl

@[simp] theorem Search.recorded_found (q : Search) (p : Nat) (d : Bool) : (q.recorded p d).found = q.found := by
  cases d <;> rfl

theorem searches_recordBit (p : Nat) (d : Bool) : Searches k k (recordBit p d) := by
  rw [recordBit_eq]
  exact searches_updateSearch (fun q => q.recorded_stk p d) fun q hq => by rwa [Search.recorded_found]

theorem searches_searchPositions : ∀ n, Searches k k (searchPositions n)
  | 0 => searches_pure le_rfl _
  | n + 1 => by
    refine searches_bind (searches_searchTriplet (Nat.sub_le 64 n)) (fun t => ?_) le_rfl
    cases t with
    | none => exact searches_pure le_rfl _
    | some d => exact searches_bind (searches_recordBit _ d) (fun _ => searches_searchPositions n) le_rfl

theorem searches_searchPass (cmd : Byte) : Searches k k (searchPass cmd) :=
  searches_bind (searches_busReset _) (fun _ => searches_bind (searches_writeByte _ _)
    (fun _ => searches_bind (searches_updateSearch (fun _ => rfl) fun _ => id) (fun _ => searches_searchPositions 64) le_rfl)
    le_rfl) le_rfl

theorem searches_recordFound : Searches k (k + 1) recordFound :=
  searches_updateSearch (fun _ => rfl) fun q hq => by
    rw [List.length_append]
    exact Nat.add_le_add_right hq 1

theorem searches_searchLoop (cmd : Byte) (n : Nat) : ∀ fuel k, Searches k (k + fuel) (searchLoop cmd n fuel)
  | 0, _ => searches_pure le_rfl _
  | fuel + 1, k => by
    refine searches_bind (searches_searchPass cmd) (fun full => ?_) (by omega)
    split
    · refine searches_bind searches_recordFound (fun _ => searches_bind (searches_look _) (fun q => ?_) (by omega)) (by omega)
      split
      · exact searches_pure (by omega) _
      · rw [show k + (fuel + 1) = k + 1 + fuel by omega]
        exact searches_searchLoop cmd n fuel (k + 1)
    · exact searches_pure (by omega) _

/-! ### Whole searches -/

/-- The engine ends with at most as many identifiers as its capacity, or early in a way a reset can (R248, R250). -/
theorem run_searchEngine_cases (n : Nat) (cmd : Byte) (s : State) :
    (∃ found t, Proc.run (searchEngine n cmd) s = (.ok found, t) ∧ found.length ≤ n) ∨
      ∃ c t, Proc.run (searchEngine n cmd) s = (.error (.err c), t) ∧ (c = .transport ∨ c = .noPresence) := by
  unfold searchEngine
  split
  · next hn => exact .inl ⟨[], s, rfl, Nat.zero_le n⟩
  · have hstart : SearchingUpTo 0 { s with search := some Search.start } :=
      ⟨_, rfl, ⟨List.Pairwise.nil, nofun⟩, le_rfl⟩
    obtain ⟨⟨q, hq, -, hfound⟩, hfails⟩ := searches_searchLoop cmd n n 0 _ hstart
    rw [run_withSearch]
    rcases hr : run (searchLoop cmd n n) { s with search := some Search.start } with ⟨e | _, t⟩ <;>
      rw [hr] at hq hfails
    · rw [run_bind_error hr]
      obtain rfl | rfl := hfails e rfl
      · exact .inr ⟨_, _, rfl, .inl rfl⟩
      · exact .inr ⟨_, _, rfl, .inr rfl⟩
    · rw [run_bind_ok hr, run_look, State.searchValue, hq]
      rw [Nat.zero_add] at hfound
      exact .inl ⟨q.found, _, rfl, hfound⟩

/-- SEARCH_ROM ends with at most as many identifiers as its capacity, which is at most 64, or with an error; it does not stop
the machine. -/
theorem run_searchRomBody_cases (n : Byte) (s : State) :
    (∃ found t, Proc.run (searchRomBody n) s = (.ok (.search (BitVec.ofNat 8 found.length) found), t) ∧
      found.length ≤ n.toNat ∧ n.toNat ≤ 64) ∨ ∃ c t, Proc.run (searchRomBody n) s = (.error (.err c), t) := by
  rcases hchecks : run checkHandleInit s with ⟨e | _, t⟩
  · have hbody : run (searchRomBody n) s = (.error e, t) := run_bind_error hchecks
    rw [run_checkHandleInit] at hchecks
    split_ifs at hchecks <;> cases hchecks <;> exact .inr ⟨_, _, hbody⟩
  · rw [searchRomBody, run_bind_ok hchecks, run_bind, run_checkCapacity]
    by_cases hn : n.toNat ≤ 64
    · rw [if_pos hn]
      obtain ⟨found, u, hrun, hlength⟩ | ⟨c, u, hrun, -⟩ := run_searchEngine_cases n.toNat cfg.cmdSearchRom t
      · exact .inl ⟨found, u, run_bind_ok hrun, hlength, hn⟩
      · exact .inr ⟨c, u, run_bind_error hrun⟩
    · rw [if_neg hn]
      exact .inr ⟨_, _, rfl⟩

/-- Settles O43: whatever way the search ends, it is with a reply, and everything before it keeps the frame. -/
theorem searchNeverOverflowsTheStack : Obligations.SearchNeverOverflowsTheStack := by
  intro s
  refine ⟨fun n => ?_, fun n cmd => ?_⟩
  · have hframe := (built_searchRomBody (o := none) n).framed s
    obtain ⟨found, t, hrun, -⟩ | ⟨c, t, hrun⟩ := run_searchRomBody_cases n s <;> rw [hrun] at hframe
    · exact ⟨_, _, runHost_of_run_ok hrun, congrArg (· ++ [_]) hframe.replies, hframe.halt⟩
    · exact ⟨_, _, runHost_of_error hrun, congrArg (· ++ [_]) hframe.replies, hframe.halt⟩
  · have hframe := framed_searchEngine n.toNat cmd s
    obtain ⟨found, t, hrun, -⟩ | ⟨c, t, hrun, -⟩ := run_searchEngine_cases n.toNat cmd s <;> rw [hrun] at hframe
    · exact ⟨_, _, exec_searchEngine_of_run_ok hrun, congrArg (· ++ [_]) hframe.replies, hframe.halt⟩
    · exact ⟨_, _, exec_searchEngine_of_run_error hrun, congrArg (· ++ [_]) hframe.replies, hframe.halt⟩

/-- Settles O44: only the success of a search has identifiers in its response. -/
theorem searchCountIsAtMostTheCapacity : Obligations.SearchCountIsAtMostTheCapacity := by
  intro n s t st count c roms hexec hreplies
  have hframe := (built_searchRomBody (o := none) n).framed s
  have hend : t = hostEnd (HostOp.status .searchRom) (run (searchRomBody n) s) := (Host.Outcome.next.inj hexec).symm
  obtain ⟨found, u, hrun, hlength, hn⟩ | ⟨c', u, hrun⟩ := run_searchRomBody_cases n s <;> rw [hrun] at hframe hend <;>
    rw [hend, hostEnd, State.reply_replies, hframe.replies] at hreplies
  · cases List.singleton_inj.1 (List.append_cancel_left hreplies)
    refine ⟨rfl, rfl, ?_, hlength⟩
    rw [BitVec.toNat_ofNat, Nat.mod_eq_of_lt (by omega)]
  · cases List.singleton_inj.1 (List.append_cancel_left hreplies)

/-! ### TRIPLET run by itself in a search -/

/-- In a search, TRIPLET run by itself is the triplet of the search (log 12). -/
theorem exec_triplet_of_search {q : Search} (hs : s.search = some q) (p : Byte) :
    exec (.triplet p) s = runMicro (searchTriplet p.toNat >>= fun t => pure (tripletResult t)) s := by
  show runMicro (tripletBody p.toNat) s = _
  rw [runMicro, tripletBody, run_bind_ok (run_look _ _), hs]
  rfl

/-- Settles O42: the triplet is part of a search that keeps its stack increasing, and ends with a reply. -/
theorem tripletKeepsTheStackIncreasing : Obligations.TripletKeepsTheStackIncreasing := by
  intro s q p hs hinc _ hp
  have hframe := framed_searchTriplet p.toNat s
  obtain ⟨⟨q', hq', hinc', -⟩, hfails⟩ := searches_searchTriplet hp s ⟨q, hs, hinc, le_rfl⟩
  rw [exec_triplet_of_search hs]
  rcases hr : run (searchTriplet p.toNat) s with ⟨e | t, u⟩ <;> rw [hr] at hframe hq' hfails
  · obtain rfl | rfl := hfails e rfl
    · exact ⟨_, q', runMicro_bind_of_run_error hr, hq', hinc', hinc'.length_le, hframe.halt⟩
    · exact ⟨_, q', runMicro_bind_of_run_error hr, hq', hinc', hinc'.length_le, hframe.halt⟩
  · exact ⟨_, q', runMicro_bind_pure_of_run_ok tripletResult hr, hq', hinc', hinc'.length_le, hframe.halt⟩

end Sys2Proof.Machine
end

section
/-! The order in which a search of a fixed population finds its devices (44_rom_search.md R244, R245, R252): the discrepancy
stack after a pass holds the positions at which a later device of the population still waits behind the one just found, and its
top is the position at which the next device leaves it. -/

namespace Sys2Proof.Machine

variable {roms : List Bytes8} {q r x prev : Bytes8} {d i j k n p : Nat}

/-! ### The bits of an identifier -/

theorem byteAt_ofList {l : List Byte} (hi : i < 8) : byteAt (Bytes8.ofList l) i = l.getD i 0 := by
  interval_cases i <;> rfl

theorem romBit_setRomBit (r : Bytes8) (hp : 1 ≤ p) (hp' : p ≤ 64) (hi : 1 ≤ i) (hi' : i ≤ 64) :
    romBit (setRomBit r p) i = (decide (i = p) || romBit r i) := by
  have hlength : r.toList.length = 8 := rfl
  have hbit : ∀ m < 8, ∀ m' < 8, ((1 : Byte) <<< m).getLsbD m' = decide (m' = m) := by decide
  rw [romBit, romBit, setRomBit, byteAt_ofList (by omega), List.getD_eq_getElem?_getD, List.getElem?_set, hlength,
    if_pos (by omega : (p - 1) / 8 < 8)]
  by_cases hbyte : (p - 1) / 8 = (i - 1) / 8
  · rw [if_pos hbyte, Option.getD_some, BitVec.getLsbD_or, hbit _ (by omega) _ (by omega), hbyte, Bool.or_comm]
    congr 2
    exact propext ⟨fun h => by omega, fun h => by rw [h]⟩
  · rw [if_neg hbyte, decide_eq_false (by rintro rfl; exact hbyte rfl), Bool.false_or, byteAt, List.getD_eq_getElem?_getD]

theorem bytes8_ext_romBit (h : ∀ p, 1 ≤ p → p ≤ 64 → romBit q p = romBit r p) : q = r := by
  have hbyte : ∀ k < 8, byteAt q k = byteAt r k := by
    intro k hk
    refine BitVec.eq_of_getLsbD_eq fun m hm => ?_
    have hbit := h (8 * k + m + 1) (by omega) (by omega)
    rwa [romBit, romBit, show (8 * k + m + 1 - 1) / 8 = k by omega, show (8 * k + m + 1 - 1) % 8 = m by omega] at hbit
  obtain ⟨q0, q1, q2, q3, q4, q5, q6, q7⟩ := q
  obtain ⟨r0, r1, r2, r3, r4, r5, r6, r7⟩ := r
  exact Bytes8.mk.injEq .. ▸ ⟨hbyte 0 (by decide), hbyte 1 (by decide), hbyte 2 (by decide), hbyte 3 (by decide),
    hbyte 4 (by decide), hbyte 5 (by decide), hbyte 6 (by decide), hbyte 7 (by decide)⟩

/-- The candidate after `n` positions of the pass that finds `r`: its first `n` bits, and zeros. -/
def candidate (r : Bytes8) : Nat → Bytes8
  | 0 => Bytes8.zero
  | n + 1 => if romBit r (n + 1) then setRomBit (candidate r n) (n + 1) else candidate r n

theorem romBit_zero (p : Nat) : romBit Bytes8.zero p = false := by
  have hbyte : byteAt Bytes8.zero ((p - 1) / 8) = 0 := by
    obtain h | h := Nat.lt_or_ge ((p - 1) / 8) 8
    · generalize (p - 1) / 8 = i at h ⊢
      interval_cases i <;> rfl
    · exact List.getD_eq_default _ _ h
  rw [romBit, hbyte]
  exact BitVec.getLsbD_zero

theorem romBit_candidate (hn : n ≤ 64) (hi : 1 ≤ i) (hi' : i ≤ 64) :
    romBit (candidate r n) i = (decide (i ≤ n) && romBit r i) := by
  induction n with
  | zero => rw [candidate, romBit_zero, decide_eq_false (by omega), Bool.false_and]
  | succ n ih =>
    have ih := ih (by omega)
    have hstep : decide (i ≤ n + 1) = (decide (i = n + 1) || decide (i ≤ n)) := by
      rw [← Bool.decide_or]
      exact decide_eq_decide.2 (by omega)
    by_cases hlast : i = n + 1
    · subst hlast
      rw [candidate]
      split
      · next hbit => rw [romBit_setRomBit _ hi hi' hi hi', hbit]; simp
      · next hbit => rw [ih, Bool.eq_false_of_not_eq_true hbit, Bool.and_false, Bool.and_false]
    · rw [hstep, decide_eq_false hlast, Bool.false_or, ← ih, candidate]
      split
      · rw [romBit_setRomBit _ (by omega) hn hi hi', decide_eq_false hlast, Bool.false_or]
      · rfl

theorem candidate_full (r : Bytes8) : candidate r 64 = r :=
  bytes8_ext_romBit fun p hp hp' => by rw [romBit_candidate le_rfl hp hp', decide_eq_true hp', Bool.true_and]

/-! ### Agreement and order -/

/-- The two identifiers have the same bits at all positions below `p`. -/
def AgreeBelow (q r : Bytes8) (p : Nat) : Prop := ∀ i, 1 ≤ i → i < p → romBit q i = romBit r i

/-- At the first position where the two identifiers differ, `q` has 0 and `r` has 1 (R252). -/
def Precedes (q r : Bytes8) : Prop := ∃ p, 1 ≤ p ∧ p ≤ 64 ∧ romBit q p = false ∧ romBit r p = true ∧ AgreeBelow q r p

theorem romsAscending_iff : RomsAscending roms ↔ roms.Pairwise Precedes := Iff.rfl

theorem AgreeBelow.symm (h : AgreeBelow q r p) : AgreeBelow r q p := fun i hi hip => (h i hi hip).symm

theorem AgreeBelow.trans (h : AgreeBelow q r p) (k : AgreeBelow r x p) : AgreeBelow q x p :=
  fun i hi hip => (h i hi hip).trans (k i hi hip)

theorem AgreeBelow.mono (h : AgreeBelow q r p) (hip : i ≤ p) : AgreeBelow q r i :=
  fun j hj hji => h j hj (hji.trans_le hip)

theorem mem_activeAt : x ∈ activeAt roms r p ↔ x ∈ roms ∧ AgreeBelow x r p := by
  simp only [activeAt, List.mem_filter, List.all_eq_true, List.mem_range, beq_iff_eq]
  refine and_congr_right fun _ => ⟨fun h i hi hip => ?_, fun h i hi => h (i + 1) (by omega) (by omega)⟩
  have := h (i - 1) (by omega)
  rwa [Nat.sub_add_cancel hi] at this

theorem Precedes.asymm (h : Precedes q r) : ¬ Precedes r q := by
  rintro ⟨j, hj, -, hrj, hqj, hbelow'⟩
  obtain ⟨i, hi, -, hqi, hri, hbelow⟩ := h
  obtain hij | rfl | hji := Nat.lt_trichotomy i j
  · exact Bool.false_ne_true (hqi.symm.trans ((hbelow' i hi hij).symm.trans hri))
  · exact Bool.false_ne_true (hqi.symm.trans hqj)
  · exact Bool.false_ne_true (hrj.symm.trans ((hbelow j hj hji).symm.trans hqj))

/-- In an ascending population the device that precedes another stands before it. -/
theorem Precedes.index_lt (hasc : RomsAscending roms) (hi : roms[i]? = some q) (hj : roms[j]? = some r)
    (h : Precedes q r) : i < j := by
  by_contra hnot
  obtain rfl | hji := Nat.eq_or_lt_of_not_lt hnot
  · obtain rfl := Option.some.inj (hi.symm.trans hj)
    exact h.asymm h
  · obtain ⟨hi', rfl⟩ := List.getElem?_eq_some_iff.1 hi
    obtain ⟨hj', rfl⟩ := List.getElem?_eq_some_iff.1 hj
    exact h.asymm (List.pairwise_iff_getElem.1 (romsAscending_iff.1 hasc) j i hj' hi' hji)

/-! ### Open positions -/

/-- In the pass that finds `r`, position `p` is one at which `r` takes the 0-branch and some device the 1-branch. -/
def isOpen (roms : List Bytes8) (r : Bytes8) (p : Nat) : Bool :=
  !romBit r p && (activeAt roms r p).any fun x => romBit x p

/-- The open positions up to `n`, in order. -/
def openPositions (roms : List Bytes8) (r : Bytes8) (n : Nat) : List Nat := (List.range' 1 n).filter (isOpen roms r)

theorem isOpen_iff : isOpen roms r p = true ↔
    romBit r p = false ∧ ∃ x ∈ roms, AgreeBelow x r p ∧ romBit x p = true := by
  simp only [isOpen, Bool.and_eq_true, Bool.not_eq_true', List.any_eq_true, mem_activeAt, and_assoc]

theorem openPositions_succ (roms : List Bytes8) (r : Bytes8) (n : Nat) :
    openPositions roms r (n + 1) = if isOpen roms r (n + 1) then openPositions roms r n ++ [n + 1] else openPositions roms r n := by
  rw [openPositions, List.range'_1_concat, List.filter_append, Nat.add_comm 1 n, List.filter_singleton]
  cases isOpen roms r (n + 1)
  · exact List.append_nil _
  · rfl

theorem mem_openPositions_le (h : p ∈ openPositions roms r n) : p ≤ n := by
  have := List.mem_range'_1.1 (List.mem_of_mem_filter h)
  omega

theorem length_openPositions_le (roms : List Bytes8) (r : Bytes8) (n : Nat) : (openPositions roms r n).length ≤ n :=
  (List.length_filter_le _ _).trans_eq List.length_range'

/-- Up to a position below which two identifiers agree, they have the same open positions. -/
theorem AgreeBelow.isOpen_eq (h : AgreeBelow q r d) (hp : 1 ≤ p) (hpd : p < d) : isOpen roms q p = isOpen roms r p := by
  have hagree : ∀ x, AgreeBelow x q p ↔ AgreeBelow x r p := fun x =>
    ⟨fun hx => hx.trans (h.mono hpd.le), fun hx => hx.trans (h.mono hpd.le).symm⟩
  rw [Bool.eq_iff_iff, isOpen_iff, isOpen_iff, h p hp hpd]
  simp only [hagree]

/-- Where a device is found, the population holds one after it for each open position. -/
theorem exists_precedes_of_isOpen (h : isOpen roms r p = true) (hp : 1 ≤ p) (hp' : p ≤ 64) :
    ∃ x ∈ roms, AgreeBelow x r p ∧ Precedes r x := by
  obtain ⟨hr, x, hx, hagree, hbit⟩ := isOpen_iff.1 h
  exact ⟨x, hx, hagree, p, hp, hp', hr, hbit, hagree.symm⟩

/-- The last device leaves no position open. -/
theorem openPositions_last (hasc : RomsAscending roms) (hlast : roms.length = j + 1) (hj : roms[j]? = some r) :
    openPositions roms r 64 = [] := by
  refine List.filter_eq_nil_iff.2 fun p hp hopen => ?_
  obtain ⟨hp, hp'⟩ := List.mem_range'_1.1 hp
  obtain ⟨x, hx, -, hprecedes⟩ := exists_precedes_of_isOpen hopen hp (by omega)
  obtain ⟨i, hi⟩ := List.getElem?_of_mem hx
  have hji := hprecedes.index_lt hasc hj hi
  obtain ⟨hi, -⟩ := List.getElem?_eq_some_iff.1 hi
  omega

/-- The last open position of a device is the one at which the next device leaves it: nothing between the two is open, for
that would be a device between them. -/
theorem openPositions_next (hasc : RomsAscending roms) (hj : roms[j]? = some q) (hnext : roms[j + 1]? = some r) (hd : 1 ≤ d)
    (hd' : d ≤ 64) (hq : romBit q d = false) (hr : romBit r d = true) (hagree : AgreeBelow q r d) :
    openPositions roms q 64 = openPositions roms r (d - 1) ++ [d] := by
  have hsplit : List.range' 1 64 = List.range' 1 (d - 1) ++ d :: List.range' (d + 1) (64 - d) := by
    have happend := List.range'_append_1 (s := 1) (m := d - 1) (n := 64 - d + 1)
    rwa [List.range'_succ, show d - 1 + (64 - d + 1) = 64 by omega, show 1 + (d - 1) = d by omega, eq_comm] at happend
  have hbelow : (List.range' 1 (d - 1)).filter (isOpen roms q) = openPositions roms r (d - 1) :=
    List.filter_congr fun p hp => by
      have := List.mem_range'_1.1 hp
      exact hagree.isOpen_eq (by omega) (by omega)
  have hopen : isOpen roms q d = true :=
    isOpen_iff.2 ⟨hq, r, List.mem_of_getElem? hnext, hagree.symm, hr⟩
  have habove : (List.range' (d + 1) (64 - d)).filter (isOpen roms q) = [] := by
    refine List.filter_eq_nil_iff.2 fun p hp hopen => ?_
    have hp := List.mem_range'_1.1 hp
    obtain ⟨x, hx, hxq, hqx⟩ := exists_precedes_of_isOpen hopen (by omega) (by omega)
    have hxr : Precedes x r :=
      ⟨d, hd, hd', (hxq d hd (by omega)).trans hq, hr, (hxq.mono (by omega)).trans hagree⟩
    obtain ⟨i, hi⟩ := List.getElem?_of_mem hx
    have := hqx.index_lt hasc hj hi
    have := hxr.index_lt hasc hi hnext
    omega
  rw [openPositions, hsplit, List.filter_append, hbelow, List.filter_cons_of_pos hopen, habove]

/-! ### The pass that finds a device -/

/-- The pass that finds `r` after one that found `prev` replays `prev` below position `d`, takes the 1-branch that is still open
at `d`, and above `d` the 0-branch wherever there is one; with `d = 0` it is the first pass. -/
structure TurnsAt (roms : List Bytes8) (prev r : Bytes8) (d : Nat) : Prop where
  replays : ∀ p, 1 ≤ p → p < d → romBit prev p = romBit r p
  turns : 1 ≤ d → romBit r d = true ∧ ∃ x ∈ activeAt roms r d, romBit x d = false
  descends : ∀ p, d < p → p ≤ 64 → (∃ x ∈ activeAt roms r p, romBit x p = false) → romBit r p = false

/-- The stack after `n` positions of the pass that finds `r` and turns at `d`. -/
def stackAfter (roms : List Bytes8) (r : Bytes8) (d n : Nat) : List Nat :=
  if n < d then openPositions roms r (d - 1) ++ [d] else openPositions roms r n

theorem turnsAt_first (hasc : RomsAscending roms) (h : roms[0]? = some r) : TurnsAt roms prev r 0 where
  replays := nofun
  turns := nofun
  descends := by
    rintro p hp hp' ⟨x, hx, hxp⟩
    obtain ⟨hx, hagree⟩ := mem_activeAt.1 hx
    obtain ⟨i, hi⟩ := List.getElem?_of_mem hx
    by_contra hbit
    have hprecedes : Precedes x r := ⟨p, hp, hp', hxp, Bool.eq_true_of_not_eq_false hbit, hagree⟩
    exact Nat.not_lt_zero i (hprecedes.index_lt hasc hi h)

theorem turnsAt_next (hasc : RomsAscending roms) (hj : roms[j]? = some q) (hnext : roms[j + 1]? = some r) (hd : 1 ≤ d)
    (hd' : d ≤ 64) (hq : romBit q d = false) (hr : romBit r d = true) (hagree : AgreeBelow q r d) : TurnsAt roms q r d where
  replays := hagree
  turns _ := ⟨hr, q, mem_activeAt.2 ⟨List.mem_of_getElem? hj, hagree⟩, hq⟩
  descends := by
    rintro p hp hp' ⟨x, hx, hxp⟩
    obtain ⟨hx, hxr⟩ := mem_activeAt.1 hx
    obtain ⟨i, hi⟩ := List.getElem?_of_mem hx
    by_contra hbit
    have hprecedes : Precedes x r := ⟨p, by omega, hp', hxp, Bool.eq_true_of_not_eq_false hbit, hxr⟩
    have hqx : Precedes q x := ⟨d, hd, hd', hq, (hxr d hd hp).trans hr, hagree.trans (hxr.mono hp.le).symm⟩
    have := hprecedes.index_lt hasc hi hnext
    have := hqx.index_lt hasc hj hi
    omega

/-- Where all active devices send one bit, it is the bit of the device that the pass finds, and the stack stays. -/
theorem forced_of_all_active {v : Bool} (hr : r ∈ roms) (ht : TurnsAt roms prev r d)
    (hall : ∀ x ∈ activeAt roms r (n + 1), romBit x (n + 1) = v) :
    romBit r (n + 1) = v ∧ stackAfter roms r d (n + 1) = stackAfter roms r d n := by
  have hbit : romBit r (n + 1) = v := hall r (mem_activeAt.2 ⟨hr, fun _ _ _ => rfl⟩)
  have hturn : n + 1 ≠ d := by
    rintro rfl
    obtain ⟨hone, x, hx, hzero⟩ := ht.turns (Nat.succ_pos n)
    exact Bool.false_ne_true (hzero.symm.trans ((hall x hx).trans (hbit.symm.trans hone)))
  have hclosed : isOpen roms r (n + 1) = false := by
    refine Bool.eq_false_of_not_eq_true fun hopen => ?_
    obtain ⟨hzero, x, hx, hagree, hone⟩ := isOpen_iff.1 hopen
    have hsame := (hall x (mem_activeAt.2 ⟨hx, hagree⟩)).trans hbit.symm
    exact Bool.false_ne_true (hzero.symm.trans (hsame.symm.trans hone))
  refine ⟨hbit, ?_⟩
  obtain hbefore | hafter := Nat.lt_or_gt_of_ne hturn
  · rw [stackAfter, if_pos hbefore, stackAfter, if_pos (by omega)]
  · rw [stackAfter, if_neg (by omega), stackAfter, if_neg (by omega), openPositions_succ, hclosed]
    rfl

/-- Where the active devices send both bits, the stack of a search that finds the population in order decides for the bit of
the device that the pass finds (R245). -/
theorem decided_of_both_active {s : Search} (ht : TurnsAt roms s.prev r d) (hn : n < 64)
    (hstk : s.stk = stackAfter roms r d n) (hzero : ∃ x ∈ activeAt roms r (n + 1), romBit x (n + 1) = false)
    (hone : ∃ x ∈ activeAt roms r (n + 1), romBit x (n + 1) = true) :
    s.decided (n + 1) false false = (romBit r (n + 1), stackAfter roms r d (n + 1)) := by
  rw [Search.decided, if_pos ⟨rfl, rfl⟩, hstk]
  obtain hbefore | hturn | hafter := Nat.lt_trichotomy (n + 1) d
  · have htop : stackTop (stackAfter roms r d n) = d := by
      rw [stackAfter, if_pos (by omega)]
      simp [stackTop]
    rw [htop, if_neg (by omega), if_pos hbefore, ht.replays _ (by omega) hbefore, stackAfter, if_pos (by omega), stackAfter,
      if_pos hbefore]
  · subst hturn
    obtain ⟨hbit, -⟩ := ht.turns (Nat.succ_pos n)
    have hclosed : isOpen roms r (n + 1) = false := by rw [isOpen, hbit]; rfl
    have hstack : stackAfter roms r (n + 1) n = openPositions roms r n ++ [n + 1] := if_pos (Nat.lt_succ_self n)
    have htop : stackTop (openPositions roms r n ++ [n + 1]) = n + 1 := by simp [stackTop]
    rw [hstack, htop, if_neg (Nat.lt_irrefl _), if_neg (Nat.lt_irrefl _), List.dropLast_concat, hbit, stackAfter,
      if_neg (Nat.lt_irrefl _), openPositions_succ, hclosed]
    rfl
  · have hstack : stackAfter roms r d n = openPositions roms r n := if_neg (by omega)
    have htop : stackTop (openPositions roms r n) < n + 1 := by
      obtain hnil | ⟨init, p, hconcat⟩ := (openPositions roms r n).eq_nil_or_concat'
      · rw [hnil]
        exact Nat.succ_pos n
      · have hp : p ∈ openPositions roms r n := by simp [hconcat]
        have := mem_openPositions_le hp
        simpa [hconcat, stackTop] using Nat.lt_succ_of_le this
    have hbit := ht.descends (n + 1) hafter hn hzero
    have hopen : isOpen roms r (n + 1) = true := by
      obtain ⟨x, hx, hxbit⟩ := hone
      obtain ⟨hx, hagree⟩ := mem_activeAt.1 hx
      exact isOpen_iff.2 ⟨hbit, x, hx, hagree, hxbit⟩
    rw [hstack, if_pos htop, hbit, stackAfter, if_neg (by omega), openPositions_succ, if_pos hopen]

/-- In the pass that finds `r`, the samples of position `n + 1` are not both 1, and they and the stack decide for the bit of
`r` (R244, R245). -/
theorem decided_of_population {s : Search} (hr : r ∈ roms) (ht : TurnsAt roms s.prev r d) (hn : n < 64)
    (hstk : s.stk = stackAfter roms r d n) {b c : Bool} (hb : b = (activeAt roms r (n + 1)).all fun x => romBit x (n + 1))
    (hc : c = (activeAt roms r (n + 1)).all fun x => !romBit x (n + 1)) :
    ¬(b = true ∧ c = true) ∧ s.decided (n + 1) b c = (romBit r (n + 1), stackAfter roms r d (n + 1)) := by
  cases b with
  | true =>
    obtain ⟨hbit, hstack⟩ := forced_of_all_active hr ht (v := true) (by simpa using hb.symm)
    have hc : c = false := by
      rw [hc, List.all_eq_false]
      exact ⟨r, mem_activeAt.2 ⟨hr, fun _ _ _ => rfl⟩, by simp [hbit]⟩
    subst hc
    exact ⟨nofun, by rw [Search.decided, if_neg nofun, hbit, hstk, hstack]⟩
  | false =>
    refine ⟨nofun, ?_⟩
    cases c with
    | true =>
      obtain ⟨hbit, hstack⟩ := forced_of_all_active hr ht (v := false) (by simpa using hc.symm)
      rw [Search.decided, if_neg nofun, hbit, hstk, hstack]
    | false =>
      exact decided_of_both_active ht hn hstk (by simpa using List.all_eq_false.1 hb.symm)
        (by simpa using List.all_eq_false.1 hc.symm)

theorem room_of_stackAfter {s : Search} (hn : n < 64) (hstk : s.stk = stackAfter roms r d n)
    (htop : stackTop s.stk < n + 1) : s.stk.length < 64 := by
  rw [hstk, stackAfter] at *
  split at htop
  · simp only [stackTop, List.getLastD_concat] at htop
    omega
  · next hd =>
    rw [if_neg hd]
    exact (length_openPositions_le roms r n).trans_lt hn

/-! ### The search state between passes -/

/-- The search state after the passes that find the first `j` devices of a population. -/
def enumerated (roms : List Bytes8) : Nat → Search
  | 0 => Search.start
  | j + 1 =>
    { stk := openPositions roms (roms.getD j Bytes8.zero) 64
      prev := roms.getD j Bytes8.zero
      cand := roms.getD j Bytes8.zero
      found := roms.take (j + 1) }

theorem enumerated_succ (hj : roms[j]? = some r) :
    enumerated roms (j + 1) = { stk := openPositions roms r 64, prev := r, cand := r, found := roms.take (j + 1) } := by
  have hget : roms.getD j Bytes8.zero = r := by rw [List.getD_eq_getElem?_getD, hj, Option.getD_some]
  rw [enumerated, hget]

theorem enumerated_found (roms : List Bytes8) (j : Nat) : (enumerated roms j).found = roms.take j := by
  cases j <;> rfl

/-- The state after a pass is one from which the next pass finds the next device. -/
theorem exists_turnsAt (hasc : RomsAscending roms) (hj : roms[j]? = some r) :
    ∃ d ≤ 64, (j ≠ 0 → 1 ≤ d) ∧ TurnsAt roms (enumerated roms j).prev r d ∧
      (enumerated roms j).stk = stackAfter roms r d 0 := by
  cases j with
  | zero => exact ⟨0, Nat.zero_le _, nofun, turnsAt_first hasc hj, rfl⟩
  | succ j =>
    obtain ⟨q, hq⟩ : ∃ q, roms[j]? = some q := by
      obtain ⟨hlt, -⟩ := List.getElem?_eq_some_iff.1 hj
      exact ⟨_, List.getElem?_eq_getElem (Nat.lt_of_succ_lt hlt)⟩
    have hprecedes : Precedes q r := by
      obtain ⟨hj', rfl⟩ := List.getElem?_eq_some_iff.1 hj
      obtain ⟨hq', rfl⟩ := List.getElem?_eq_some_iff.1 hq
      exact List.pairwise_iff_getElem.1 (romsAscending_iff.1 hasc) j (j + 1) hq' hj' (Nat.lt_succ_self j)
    obtain ⟨d, hd, hd', hqd, hrd, hagree⟩ := hprecedes
    rw [enumerated_succ hq]
    refine ⟨d, hd', fun _ => hd, turnsAt_next hasc hq hj hd hd' hqd hrd hagree, ?_⟩
    rw [stackAfter, if_pos (by omega)]
    exact openPositions_next hasc hq hj hd hd' hqd hrd hagree

/-- After a pass the stack is empty exactly where the population has no further device. -/
theorem enumerated_stk_eq_nil_iff (hasc : RomsAscending roms) (hj : roms[j]? = some r) :
    (enumerated roms (j + 1)).stk = [] ↔ roms.length = j + 1 := by
  obtain ⟨hlt, -⟩ := List.getElem?_eq_some_iff.1 hj
  constructor
  · intro hnil
    by_contra hne
    have hnext : roms[j + 1]? = some roms[j + 1] := List.getElem?_eq_getElem (by omega)
    obtain ⟨d, -, hd, -, hstk⟩ := exists_turnsAt hasc hnext
    have hd := hd (Nat.succ_ne_zero j)
    rw [hnil, stackAfter, if_pos (by omega)] at hstk
    exact List.append_ne_nil_of_right_ne_nil _ (List.cons_ne_nil d []) hstk.symm
  · intro hlast
    rw [enumerated_succ hj]
    exact openPositions_last hasc hlast hj

end Sys2Proof.Machine
end

section
/-! A search that follows a script (44_rom_search.md R241, R243). Every part of it is described once, by how it goes on after
the calls it makes with its trace, and by what it ends with at the first of them that fails (`LeadsTo`). That is closed under
sequencing, inside a critical section and outside one, so slots make a triplet, triplets a pass, and passes a search. -/

namespace Sys2Proof.Machine

variable {α β : Type} {s : State} {inside : Bool} {q q' q'' : Search} {ws ws' : List Wanted} {evs evs' : List PortEvent}
  {as rest : List Answer}

/-! ### Going on after calls that succeed -/

/-- The state in the middle of a search that began in `s`: `evs` are its events so far, all of whose calls succeeded, `q` is the
search state, `env` the answers to come, and `inside` says whether a critical section is open. -/
def State.searching (s : State) (inside : Bool) (evs : List PortEvent) (q : Search) (env : List Answer) : State :=
  { s with trace := s.trace ++ evs, env := env, line := latched s.line evs, cs := inside, search := some q }

/-- The state in the middle of a search in which call `j` of the trace `evs` has failed: an open section is still open, and
one that was opened and closed again has its IRQ_ON. -/
def State.searchFailed (s : State) (inside : Bool) (evs : List PortEvent) (j : Nat) (q : Search) (rest : List Answer) : State :=
  { s with
    trace := s.trace ++ upToCall (j + 1) evs ++ if inside then [] else [.irqOn]
    env := rest
    line := latched s.line (upToCall j evs)
    cs := inside
    search := some q }

/-- In the middle of a search that began in `s`, the sequence makes the calls `ws` with the trace `evs`: where they all succeed
it goes on as `m'` with the search state `q'`, and at the first that fails it ends with TRANSPORT. -/
structure Proc.LeadsTo (s : State) (inside : Bool) (m : Proc α) (q : Search) (ws : List Wanted) (evs : List PortEvent)
    (m' : Proc α) (q' : Search) : Prop where
  calls : callCount evs = ws.length
  ok : ∀ pre as rest, fits ws as = true →
    run m (s.searching inside pre q (as ++ rest)) = run m' (s.searching inside (pre ++ evs) q' rest)
  fails : ∀ pre j as a rest, j < ws.length → fits (ws.take j) as = true → a.status ≠ 0 →
    ∃ q'', run m (s.searching inside pre q (as ++ a :: rest)) =
      (.error (.err .transport), s.searchFailed inside (pre ++ evs) (callCount pre + j) q'' rest)

open Proc

theorem searching_irqOff (s : State) (evs : List PortEvent) (q : Search) (env : List Answer) :
    (s.searching false evs q env).irqOff = s.searching true (evs ++ [.irqOff]) q env := by
  simp [State.searching, State.irqOff, State.emit, latched_append, latched]

theorem searching_irqOn (s : State) (evs : List PortEvent) (q : Search) (env : List Answer) :
    (s.searching true evs q env).irqOn = s.searching false (evs ++ [.irqOn]) q env := by
  simp [State.searching, State.irqOn, State.emit, latched_append, latched]

/-- The failing call is in the first part of the trace. -/
theorem searchFailed_append_left (s : State) (inside : Bool) (a b : List PortEvent) {j : Nat} (hj : j < callCount a)
    (q : Search) (rest : List Answer) :
    s.searchFailed inside (a ++ b) j q rest = s.searchFailed inside a j q rest := by
  rw [State.searchFailed, upToCall_append_left a b _ hj, upToCall_append_left a b _ hj.le]
  rfl

section
variable {m m' m'' : Proc α} {f : α → Proc β} {v : α}

/-- A part of a sequence that makes no call and changes the search state only. -/
theorem Proc.LeadsTo.of_silent
    (h : ∀ pre env, run m (s.searching inside pre q env) = run m' (s.searching inside pre q' env)) :
    LeadsTo s inside m q [] [] m' q' where
  calls := rfl
  ok pre as rest hf := by
    obtain rfl := (fits_nil as).1 hf
    rw [List.append_nil]
    exact h pre rest
  fails := nofun

theorem Proc.LeadsTo.refl (m : Proc α) : LeadsTo s inside m q [] [] m q := .of_silent fun _ _ => rfl

theorem Proc.LeadsTo.congr (h : LeadsTo s inside m q ws evs m' q') (hws : ws = ws') (hevs : evs = evs') :
    LeadsTo s inside m q ws' evs' m' q' := by
  rwa [← hws, ← hevs]

theorem Proc.LeadsTo.trans (h : LeadsTo s inside m q ws evs m' q') (k : LeadsTo s inside m' q' ws' evs' m'' q'') :
    LeadsTo s inside m q (ws ++ ws') (evs ++ evs') m'' q'' where
  calls := by rw [callCount_append, List.length_append, h.calls, k.calls]
  ok pre as rest hf := by
    obtain ⟨as1, as2, rfl, hf1, hf2⟩ := (fits_append ..).1 hf
    rw [List.append_assoc, h.ok pre as1 _ hf1, k.ok _ as2 rest hf2, List.append_assoc]
  fails pre j as a rest hj hf hfail := by
    obtain hfirst | hsecond := Nat.lt_or_ge j ws.length
    · rw [List.take_append_of_le_length hfirst.le] at hf
      obtain ⟨q'', hrun⟩ := h.fails pre j as a rest hfirst hf hfail
      refine ⟨q'', ?_⟩
      rw [hrun, ← List.append_assoc, searchFailed_append_left s inside (pre ++ evs) evs']
      rw [callCount_append, h.calls]
      omega
    · obtain ⟨i, rfl⟩ := Nat.exists_eq_add_of_le hsecond
      rw [List.take_length_add_append, fits_append] at hf
      obtain ⟨as1, as2, rfl, hf1, hf2⟩ := hf
      rw [List.length_append] at hj
      have hrun := k.fails (pre ++ evs) i as2 a rest (by omega) hf2 hfail
      rw [callCount_append, h.calls, List.append_assoc, Nat.add_assoc] at hrun
      rwa [List.append_assoc as1, h.ok pre as1 _ hf1]

/-- What follows a sequence follows it where it goes on. -/
theorem Proc.LeadsTo.seq (h : LeadsTo s inside m q ws evs m' q') (f : α → Proc β) :
    LeadsTo s inside (m >>= f) q ws evs (m' >>= f) q' where
  calls := h.calls
  ok pre as rest hf := by rw [run_bind, run_bind, h.ok pre as rest hf]
  fails pre j as a rest hj hf hfail := by
    obtain ⟨q'', hrun⟩ := h.fails pre j as a rest hj hf hfail
    exact ⟨q'', run_bind_error hrun⟩

/-- A sequence that goes on to its value hands it to what follows. -/
theorem Proc.LeadsTo.bind {k : Proc β} (h : LeadsTo s inside m q ws evs (pure v) q')
    (hf : LeadsTo s inside (f v) q' ws' evs' k q'') : LeadsTo s inside (m >>= f) q (ws ++ ws') (evs ++ evs') k q'' := by
  have hseq := h.seq f
  rw [pure_bind] at hseq
  exact hseq.trans hf

theorem Proc.LeadsTo.bind_silent {k : Proc β} (h : LeadsTo s inside m q ws evs (pure v) q')
    (hf : LeadsTo s inside (f v) q' [] [] k q'') : LeadsTo s inside (m >>= f) q ws evs k q'' :=
  (h.bind hf).congr (List.append_nil ws) (List.append_nil evs)

/-- A critical section around a sequence is closed on every exit (00_scope.md R13). -/
theorem Proc.LeadsTo.critical (h : LeadsTo s true m q ws evs (pure v) q') :
    LeadsTo s false (critical m) q ws (.irqOff :: (evs ++ [.irqOn])) (pure v) q' where
  calls := by
    rw [callCount_cons, callCount_append, h.calls]
    exact Nat.zero_add _
  ok pre as rest hf := by
    rw [run_critical, searching_irqOff, h.ok _ as rest hf, run_pure, run_pure, searching_irqOn]
    simp
  fails pre j as a rest hj hf hfail := by
    obtain ⟨q'', hrun⟩ := h.fails (pre ++ [.irqOff]) j as a rest hj hf hfail
    have hcount : callCount (pre ++ [.irqOff]) = callCount pre := callCount_append pre [.irqOff]
    have htrace : pre ++ PortEvent.irqOff :: (evs ++ [.irqOn]) = pre ++ [.irqOff] ++ evs ++ [.irqOn] := by simp
    refine ⟨q'', ?_⟩
    rw [run_critical, searching_irqOff, hrun, htrace, searchFailed_append_left s false, hcount]
    · simp [State.searchFailed, State.irqOn, State.emit]
    · rw [callCount_append, hcount, h.calls]
      omega

/-- A byte or a reset, which leaves the scratchpad transaction and the search state alone. -/
theorem Proc.LeadsTo.of_transacts (h : Transacts { s with search := some q } m s.tx ws evs v s.tx)
    (htx : ∀ t, (run m t).2.tx = t.tx) : LeadsTo s false m q ws evs (pure v) q where
  calls := h.calls
  ok pre as rest hf := h.ok pre as rest hf
  fails pre j as a rest hj hf hfail := by
    obtain ⟨tx', hrun⟩ := h.fails pre j as a rest hj hf hfail
    have hsame := htx (s.searching false pre q (as ++ a :: rest))
    have hrun : run m (s.searching false pre q (as ++ a :: rest)) = _ := hrun
    rw [hrun] at hsame
    obtain rfl : tx' = s.tx := hsame
    exact ⟨q, hrun⟩

end

/-! ### Slots -/

theorem leadsTo_busWrite (b : Bool) : LeadsTo s true (busWrite b) q [none] [.w b] (pure ()) q where
  calls := rfl
  ok pre as rest hf := by
    obtain ⟨a, _, rfl, h0, -, hnil⟩ := (fits_cons ..).1 hf
    obtain rfl := (fits_nil _).1 hnil
    rw [run_busWrite_ok rfl h0]
    simp [State.searching, latched_append, latched]
  fails pre j as a rest hj hf hfail := by
    obtain rfl := Nat.lt_one_iff.1 hj
    obtain rfl := (fits_nil as).1 hf
    refine ⟨q, ?_⟩
    rw [run_busWrite_error rfl hfail, State.searchFailed, latched_upToCall_append, Nat.add_assoc, upToCall_append_right]
    simp [State.searching, upToCall, PortEvent.isCall]

theorem leadsTo_busRead (v : Bool) : LeadsTo s true busRead q [some v] [.r] (pure v) q where
  calls := rfl
  ok pre as rest hf := by
    obtain ⟨a, _, rfl, h0, hv, hnil⟩ := (fits_cons ..).1 hf
    obtain rfl := (fits_nil _).1 hnil
    obtain rfl : v = a.sample := by simpa using hv
    rw [run_busRead_ok rfl h0]
    simp [State.searching, latched_append, latched]
  fails pre j as a rest hj hf hfail := by
    obtain rfl := Nat.lt_one_iff.1 hj
    obtain rfl := (fits_nil as).1 hf
    refine ⟨q, ?_⟩
    rw [run_busRead_error rfl hfail, State.searchFailed, latched_upToCall_append, Nat.add_assoc, upToCall_append_right]
    simp [State.searching, upToCall, PortEvent.isCall]

theorem leadsTo_delayUs (n : Nat) : LeadsTo s true (delayUs n) q [] [.dus n] (pure ()) q where
  calls := rfl
  ok pre as rest hf := by
    obtain rfl := (fits_nil as).1 hf
    rw [run_delayUs]
    simp [State.searching, State.emit, latched_append, latched]
  fails := nofun

theorem leadsTo_readSlot (P : Profile) (v : Bool) :
    LeadsTo s true (readSlot P) q (slotRead v) (readSlotTrace P) (pure v) q :=
  (leadsTo_busWrite false).bind <| (leadsTo_delayUs P.tRL).bind <| (leadsTo_busWrite true).bind <|
    (leadsTo_delayUs P.tRS).bind <| (leadsTo_busRead v).bind <| (leadsTo_delayUs P.tRR).bind <| .refl (pure v)

theorem leadsTo_writeSlot (P : Profile) (b : Bool) :
    LeadsTo s true (writeSlot P b) q (slotsWritten 1) (writeSlotTrace P b) (pure ()) q := by
  have hslot := (leadsTo_busWrite (s := s) (q := q) false).bind (f := fun _ => delayUs (if b then P.tW1L else P.tW0L)
    >>= fun _ => busWrite true >>= fun _ => delayUs (if b then P.tW1H else P.tW0H)) <|
      (leadsTo_delayUs _).bind <| (leadsTo_busWrite true).bind <| leadsTo_delayUs _
  exact hslot.congr rfl (by cases b <;> rfl)

/-! ### Triplets -/

/-- What a triplet does after its two samples. -/
def tripletEnd (p : Nat) (b c : Bool) : Proc (Option Bool) :=
  if b = true ∧ c = true then pure none
  else do
    let d ← decideDirection p b c
    writeSlot (Prof.timing .std) d
    pure (some d)

theorem searchTriplet_eq (p : Nat) : searchTriplet p = critical (readSlot (Prof.timing .std) >>= fun b =>
    readSlot (Prof.timing .std) >>= fun c => tripletEnd p b c) := rfl

/-- The two samples of a triplet and what follows from them, in one section. -/
theorem leadsTo_searchTriplet_of_end {p : Nat} {b c : Bool} {t : Option Bool}
    (h : LeadsTo s true (tripletEnd p b c) q ws evs (pure t) q') :
    LeadsTo s false (searchTriplet p) q (slotRead b ++ slotRead c ++ ws)
      (.irqOff :: (readSlotTrace profStd ++ readSlotTrace profStd ++ evs ++ [.irqOn])) (pure t) q' := by
  have hbody : LeadsTo s true (readSlot (Prof.timing .std) >>= fun b => readSlot (Prof.timing .std) >>= fun c =>
      tripletEnd p b c) q _ _ (pure t) q' :=
    (leadsTo_readSlot (Prof.timing .std) b).bind ((leadsTo_readSlot (Prof.timing .std) c).bind h)
  rw [searchTriplet_eq, List.append_assoc, List.append_assoc]
  exact hbody.critical

/-- A triplet whose samples are not both 1 writes back what they and the search state decide (R243, R244). -/
theorem leadsTo_searchTriplet {p : Nat} {b c : Bool} (hsamples : ¬(b = true ∧ c = true))
    (hroom : stackTop q.stk < p → q.stk.length < 64) :
    LeadsTo s false (searchTriplet p) q (tripletAnswers b c) (tripletTrace (q.decided p b c).1)
      (pure (some (q.decided p b c).1)) (q.withStk (q.decided p b c).2) := by
  have hdecide : LeadsTo s true (decideDirection p b c) q [] [] (pure (q.decided p b c).1) (q.withStk (q.decided p b c).2) :=
    .of_silent fun _ _ => run_decideDirection b c rfl hroom
  refine leadsTo_searchTriplet_of_end ?_
  rw [tripletEnd, if_neg hsamples]
  exact hdecide.bind ((leadsTo_writeSlot profStd _).bind_silent (.refl (pure (some _))))

/-- A triplet whose samples are both 1 writes nothing (R243, R247). -/
theorem leadsTo_searchTriplet_none (p : Nat) :
    LeadsTo s false (searchTriplet p) q (slotRead true ++ slotRead true) tripletNoneTrace (pure none) q :=
  leadsTo_searchTriplet_of_end (b := true) (c := true) (.refl (pure none))

/-- TRIPLET run by itself: whether the state is outside a section does not matter, since the triplet opens one. -/
theorem run_searchTriplet_of_leadsTo {p : Nat} {t : Option Bool} (hs : s.search = some q) (henv : s.env = as ++ rest)
    (h : LeadsTo s false (searchTriplet p) q ws evs (pure t) q') (hf : fits ws as = true)
    (hlatched : ∀ line, latched line evs = some true) :
    Proc.run (searchTriplet p) s = (.ok t, { s.ran evs rest with search := some q' }) := by
  have hopen : (s.searching false [] q (as ++ rest)).irqOff = s.irqOff := by
    rw [← henv]
    simp [State.searching, State.irqOff, State.emit, ← hs]
  have hrun := h.ok [] as rest hf
  rw [searchTriplet_eq, run_critical, hopen, ← run_critical, ← searchTriplet_eq, run_pure] at hrun
  rw [hrun, State.searching, List.nil_append, hlatched]
  rfl

/-- Settles O40: the pair is not (1, 1), so the triplet writes back what it decides. -/
theorem tripletDecidesTheDirection : Obligations.TripletDecidesTheDirection := by
  intro s q p b c as rest hs hstk hp hp' henv hfits hsamples
  have hroom : stackTop q.stk < p.toNat → q.stk.length < 64 := hstk.length_lt_of_top hp'
  have hlatched : ∀ line d, latched line (tripletTrace d) = some true := fun line d => by cases d <;> rfl
  have hrun := run_searchTriplet_of_leadsTo hs henv (leadsTo_searchTriplet hsamples hroom) hfits (hlatched · _)
  refine ⟨_, _, (exec_triplet_of_search hs p).trans (runMicro_bind_pure_of_run_ok tripletResult hrun), ?_, ?_, ?_⟩
  · rintro rfl rfl
    exact ⟨rfl, rfl⟩
  · rintro rfl rfl
    exact ⟨rfl, rfl⟩
  · rintro rfl rfl
    rw [Search.decided, if_pos ⟨rfl, rfl⟩, stackTop]
    refine ⟨fun h => ?_, fun h => ?_, fun h => ?_⟩
    · rw [if_pos h]
      exact ⟨rfl, rfl⟩
    · rw [if_neg (by omega), if_pos h]
      exact ⟨rfl, rfl⟩
    · rw [if_neg (by omega), if_neg (by omega)]
      exact ⟨rfl, rfl⟩

/-- Settles O41: in a search, and on the search state that a search begins with, which is discarded again. -/
theorem tripletWithoutResponseWritesNothing : Obligations.TripletWithoutResponseWritesNothing := by
  intro s p as rest henv hfits
  have hrun : ∀ (u : State) (q : Search), u.search = some q → u.env = as ++ rest →
      run (searchTriplet p.toNat) u = (.ok none, { u.ran tripletNoneTrace rest with search := some q }) := fun u q hu henv =>
    run_searchTriplet_of_leadsTo hu henv (leadsTo_searchTriplet_none p.toNat) hfits fun _ => rfl
  cases hs : s.search with
  | some q =>
    have hsame : { s.ran tripletNoneTrace rest with search := some q } = s.ran tripletNoneTrace rest := by
      rw [← hs]
      rfl
    rw [exec_triplet_of_search hs, runMicro_bind_pure_of_run_ok tripletResult (hrun s q hs henv), hsame]
    rfl
  | none =>
    have hsame : { s.ran tripletNoneTrace rest with search := none } = s.ran tripletNoneTrace rest := by
      rw [← hs]
      rfl
    have hscoped : run (withSearch (searchTriplet p.toNat)) s = (.ok none, s.ran tripletNoneTrace rest) := by
      rw [run_withSearch, hrun { s with search := some Search.start } _ rfl henv, ← hsame]
      rfl
    show runMicro (tripletBody p.toNat) s = _
    rw [runMicro, tripletBody, run_bind_ok (run_look _ _), hs, run_bind_ok hscoped]
    rfl

end Sys2Proof.Machine
end

section
/-! Whole searches that follow a script (44_rom_search.md R241, R247, R248, R250, R252): a pass over a population, the passes
that find its devices one after another, and how the engine ends after them. -/

namespace Sys2Proof.Machine

variable {s t : State} {roms : List Bytes8} {q : Search} {r : Bytes8} {cmd : Byte} {d j k1 k2 n fuel : Nat}
  {polls : List (Nat × Nat)} {ws : List Wanted} {evs : List PortEvent} {as rest : List Answer}

open Proc

/-! ### One pass -/

theorem leadsTo_updateSearch (f : Search → Search) : LeadsTo s false (updateSearch f) q [] [] (pure ()) (f q) :=
  .of_silent fun _ _ => rfl

theorem leadsTo_writeByte (p : Prof) (x : Byte) :
    LeadsTo s false (writeByte p x) q (bytesWritten 1) (byteWriteTrace p x) (pure ()) q :=
  .of_transacts (transacts_writeByte _ _ p x) fun t => (oneSection_writeByte p x t).tx

theorem leadsTo_busReset (hpolls : s.polls = none) {p : Prof} (hk : PollsWithin p k1 k2) :
    LeadsTo s false (busReset p) q (resetPresent k1 k2) (resetTrace p (k1 + k2)) (pure ()) q :=
  .of_transacts (transacts_busReset (s := { s with search := some q }) hpolls _ hk) fun t => (oneSection_busReset p t).tx

/-- The search state after `n` positions of the pass that finds `r` and turns at `d`, begun in the search state `q`. -/
def passState (roms : List Bytes8) (q : Search) (r : Bytes8) (d n : Nat) : Search :=
  { q with stk := stackAfter roms r d n, cand := candidate r n }

/-- The answers to the triplet after `n` positions of the pass that finds `r`. -/
def populationTriplet (roms : List Bytes8) (r : Bytes8) (n : Nat) : List Wanted :=
  tripletAnswers ((activeAt roms r (n + 1)).all fun x => romBit x (n + 1))
    ((activeAt roms r (n + 1)).all fun x => !romBit x (n + 1))

theorem populationPrefix_eq (roms : List Bytes8) (r : Bytes8) (k1 k2 n : Nat) : populationPrefix roms r k1 k2 n =
    resetPresent k1 k2 ++ bytesWritten 1 ++ (List.range n).flatMap (populationTriplet roms r) := rfl

section
variable (hr : r ∈ roms) (ht : TurnsAt roms q.prev r d)
include hr ht

theorem leadsTo_position (hn : n < 64) :
    LeadsTo s false (searchPositions (64 - n)) (passState roms q r d n) (populationTriplet roms r n)
      (tripletTrace (romBit r (n + 1))) (searchPositions (64 - (n + 1))) (passState roms q r d (n + 1)) := by
  obtain ⟨hsamples, hdecided⟩ := decided_of_population (s := passState roms q r d n) hr ht hn rfl rfl rfl
  have htriplet := leadsTo_searchTriplet (s := s) (q := passState roms q r d n) hsamples (room_of_stackAfter hn rfl)
  rw [hdecided] at htriplet
  have hstate : ((passState roms q r d n).withStk (stackAfter roms r d (n + 1))).recorded (n + 1) (romBit r (n + 1)) =
      passState roms q r d (n + 1) := by
    cases hbit : romBit r (n + 1) <;> simp [passState, candidate, Search.withStk, Search.recorded, hbit]
  have hrecord : LeadsTo s false (recordBit (n + 1) (romBit r (n + 1)))
      ((passState roms q r d n).withStk (stackAfter roms r d (n + 1))) [] [] (pure ()) (passState roms q r d (n + 1)) :=
    hstate ▸ leadsTo_updateSearch fun q => q.recorded (n + 1) (romBit r (n + 1))
  rw [show 64 - n = 64 - (n + 1) + 1 by omega, searchPositions, show 64 - (64 - (n + 1)) = n + 1 by omega]
  exact htriplet.bind_silent (hrecord.bind (.refl _))

theorem leadsTo_positions (hn : n ≤ 64) :
    LeadsTo s false (searchPositions 64) (passState roms q r d 0) ((List.range n).flatMap (populationTriplet roms r))
      ((List.range n).flatMap fun i => tripletTrace (romBit r (i + 1))) (searchPositions (64 - n)) (passState roms q r d n) := by
  induction n with
  | zero => exact .refl _
  | succ n ih =>
    rw [List.range_succ, List.flatMap_append, List.flatMap_append, List.flatMap_singleton, List.flatMap_singleton]
    exact (ih (by omega)).trans (leadsTo_position hr ht hn)

/-- A pass up to and including its triplet at position `n`. -/
theorem leadsTo_passPrefix (hstk : q.stk = stackAfter roms r d 0) (hpolls : s.polls = none) (hk : PollsWithin .std k1 k2)
    (hn : n ≤ 64) :
    LeadsTo s false (searchPass cmd) q (populationPrefix roms r k1 k2 n) (passPrefixTrace r cmd (k1 + k2) n)
      (searchPositions (64 - n)) (passState roms q r d n) := by
  have hclear := leadsTo_updateSearch (s := s) (q := q) fun q => { q with cand := Bytes8.zero }
  have hstate : { q with cand := Bytes8.zero } = passState roms q r d 0 := by rw [passState, ← hstk, candidate]
  rw [populationPrefix_eq, passPrefixTrace, List.append_assoc, List.append_assoc]
  exact (leadsTo_busReset hpolls hk).bind <| (leadsTo_writeByte .std cmd).bind <|
    (hstate ▸ hclear).bind (leadsTo_positions hr ht hn)

end

/-- The pass that finds the next device of a population. -/
theorem leadsTo_searchPass (hasc : RomsAscending roms) (hj : roms[j]? = some r) (hpolls : s.polls = none)
    (hk : PollsWithin .std k1 k2) :
    LeadsTo s false (searchPass cmd) (enumerated roms j) (populationPass roms r k1 k2) (singlePassTrace r cmd (k1 + k2))
      (pure true) { enumerated roms j with stk := openPositions roms r 64, cand := r } := by
  obtain ⟨d, hd, -, ht, hstk⟩ := exists_turnsAt hasc hj
  have hpass := leadsTo_passPrefix (cmd := cmd) (List.mem_of_getElem? hj) ht hstk hpolls hk le_rfl
  rw [passState, stackAfter, if_neg (by omega), candidate_full] at hpass
  exact hpass

/-- A pass that ends at position `p`, where no device responds (R247). -/
theorem leadsTo_searchPass_noResponse (hasc : RomsAscending roms) (hj : roms[j]? = some r) (hpolls : s.polls = none)
    (hk : PollsWithin .std k1 k2) {p : Nat} (hp : 1 ≤ p) (hp' : p ≤ 64) :
    ∃ q, LeadsTo s false (searchPass cmd) (enumerated roms j)
      (populationPrefix roms r k1 k2 (p - 1) ++ (slotRead true ++ slotRead true))
      (passPrefixTrace r cmd (k1 + k2) (p - 1) ++ tripletNoneTrace) (pure false) q ∧ q.found = roms.take j := by
  obtain ⟨d, -, -, ht, hstk⟩ := exists_turnsAt hasc hj
  have hprefix := leadsTo_passPrefix (cmd := cmd) (List.mem_of_getElem? hj) ht hstk hpolls hk (n := p - 1) (by omega)
  rw [show 64 - (p - 1) = 64 - p + 1 by omega, searchPositions] at hprefix
  exact ⟨_, hprefix.trans ((leadsTo_searchTriplet_none _).bind_silent (.refl _)), enumerated_found roms j⟩

/-! ### The passes of a search -/

/-- A pass that finds a device, and the test that ends the search or goes on with the next pass (R241). -/
theorem leadsTo_searchLoop (hasc : RomsAscending roms) (hj : roms[j]? = some r) (hpolls : s.polls = none)
    (hk : PollsWithin .std k1 k2) :
    LeadsTo s false (searchLoop cmd n (fuel + 1)) (enumerated roms j) (populationPass roms r k1 k2)
      (singlePassTrace r cmd (k1 + k2)) (if roms.length = j + 1 ∨ j + 1 = n then pure () else searchLoop cmd n fuel)
      (enumerated roms (j + 1)) := by
  obtain ⟨hlt, -⟩ := List.getElem?_eq_some_iff.1 hj
  have hstate : { stk := openPositions roms r 64, prev := r, cand := r, found := (enumerated roms j).found ++ [r] } =
      enumerated roms (j + 1) := by
    rw [enumerated_succ hj, enumerated_found, List.take_add_one, hj]
    rfl
  have htest : ((enumerated roms (j + 1)).stk = [] ∨ (enumerated roms (j + 1)).found.length = n) =
      (roms.length = j + 1 ∨ j + 1 = n) := by
    rw [enumerated_stk_eq_nil_iff hasc hj, enumerated_found, List.length_take_of_le hlt]
  have hfound := leadsTo_updateSearch (s := s) (q := { enumerated roms j with stk := openPositions roms r 64, cand := r })
    fun q => { q with found := q.found ++ [q.cand], prev := q.cand }
  have hlook : LeadsTo s false (look State.searchValue) (enumerated roms (j + 1)) [] [] (pure (enumerated roms (j + 1)))
      (enumerated roms (j + 1)) := .of_silent fun _ _ => rfl
  rw [searchLoop]
  refine (leadsTo_searchPass hasc hj hpolls hk).bind_silent ((hstate ▸ hfound).bind (hlook.bind ?_))
  simp only [htest]
  exact .refl _

theorem zip_concat {α β : Type} {xs : List α} {ys : List β} {x : α} (y : β) (h : xs[ys.length]? = some x) :
    xs.zip (ys ++ [y]) = xs.zip ys ++ [(x, y)] := by
  induction ys generalizing xs with
  | nil =>
    cases xs with
    | nil => cases h
    | cons x' xs =>
      cases h
      simp
  | cons y' ys ih =>
    cases xs with
    | nil => cases h
    | cons x' xs => exact congrArg ((x', y') :: ·) (ih h)

theorem populationPasses_concat (h : roms[polls.length]? = some r) (k : Nat × Nat) :
    populationPasses roms (polls ++ [k]) = populationPasses roms polls ++ populationPass roms r k.1 k.2 := by
  rw [populationPasses, zip_concat k h, List.flatMap_append, List.flatMap_singleton, populationPasses]

theorem passesTrace_concat (h : roms[polls.length]? = some r) (cmd : Byte) (k : Nat × Nat) :
    passesTrace roms cmd (polls ++ [k]) = passesTrace roms cmd polls ++ singlePassTrace r cmd (k.1 + k.2) := by
  rw [passesTrace, zip_concat k h, List.flatMap_append, List.flatMap_singleton, passesTrace]

/-- The passes that find the first devices of a population, short of the capacity and of the population: the search goes on. -/
theorem leadsTo_passes (hasc : RomsAscending roms) (hpolls : s.polls = none) (hks : ∀ k ∈ polls, PollsWithin .std k.1 k.2)
    (hn : polls.length < n) (hlt : polls.length < roms.length) :
    LeadsTo s false (searchLoop cmd n n) Search.start (populationPasses roms polls) (passesTrace roms cmd polls)
      (searchLoop cmd n (n - polls.length)) (enumerated roms polls.length) := by
  induction polls using List.reverseRecOn with
  | nil =>
    rw [populationPasses, passesTrace, List.zip_nil_right]
    exact .refl _
  | append_singleton polls k ih =>
    rw [List.length_append, List.length_singleton] at hn hlt ⊢
    obtain ⟨hks, hk⟩ := List.forall_mem_append.1 hks
    have hj : roms[polls.length]? = some roms[polls.length] := List.getElem?_eq_getElem (by omega)
    have hpass := leadsTo_searchLoop (cmd := cmd) (n := n) (fuel := n - (polls.length + 1)) hasc hj hpolls
      (hk k (List.mem_singleton_self k))
    rw [if_neg (by omega), show n - (polls.length + 1) + 1 = n - polls.length by omega] at hpass
    rw [populationPasses_concat hj, passesTrace_concat hj]
    exact (ih hks (by omega) (by omega)).trans hpass

/-- The passes that find all the devices the capacity allows: the search ends (R248). -/
theorem leadsTo_allPasses (hasc : RomsAscending roms) (hpolls : s.polls = none) (hks : ∀ k ∈ polls, PollsWithin .std k.1 k.2)
    (hlength : polls.length = min n roms.length) (hne : polls ≠ []) :
    LeadsTo s false (searchLoop cmd n n) Search.start (populationPasses roms polls) (passesTrace roms cmd polls)
      (pure ()) (enumerated roms polls.length) := by
  obtain ⟨polls, k, rfl⟩ := polls.eq_nil_or_concat'.resolve_left hne
  rw [List.length_append, List.length_singleton] at hlength ⊢
  obtain ⟨hks, hk⟩ := List.forall_mem_append.1 hks
  have hj : roms[polls.length]? = some roms[polls.length] := List.getElem?_eq_getElem (by omega)
  have hpass := leadsTo_searchLoop (cmd := cmd) (n := n) (fuel := n - (polls.length + 1)) hasc hj hpolls
    (hk k (List.mem_singleton_self k))
  rw [if_pos (by omega), show n - (polls.length + 1) + 1 = n - polls.length by omega] at hpass
  rw [populationPasses_concat hj, passesTrace_concat hj]
  exact (leadsTo_passes hasc hpolls hks (by omega) (by omega)).trans hpass

/-! ### The line after passes -/

theorem latched_passPrefixTrace (line : Option Bool) (r : Bytes8) (cmd : Byte) (k n : Nat) :
    latched line (passPrefixTrace r cmd k n) = some true := by
  have hreset : ∀ line, latched line (resetTrace .std k) = some true := fun line => by
    rw [resetTrace_eq, latched, latched_append, latched_append, latched_pollsTrace]
    rfl
  have htriplet : ∀ line i, latched line (tripletTrace (romBit r (i + 1))) = some true := fun line i => by
    cases romBit r (i + 1) <;> rfl
  have hbyte : ∀ line, latched line (byteWriteTrace .std cmd) = some true := fun line => by
    rw [byteWriteTrace, latched, latched_append, latched_flatMap (latched_writeSlotTrace _)]
    rfl
  rw [passPrefixTrace, latched_append, latched_append, hreset, hbyte, latched_flatMap htriplet, ite_self]

theorem latched_passesTrace (line : Option Bool) (cmd : Byte) (hpolls : polls ≠ []) (hroms : roms ≠ []) :
    latched line (passesTrace roms cmd polls) = some true := by
  have hlength : (roms.zip polls).length ≠ 0 := by
    rw [List.length_zip]
    have := List.length_pos_of_ne_nil hpolls
    have := List.length_pos_of_ne_nil hroms
    omega
  rw [passesTrace, latched_flatMap fun line x => latched_passPrefixTrace line x.1 cmd (x.2.1 + x.2.2) 64, if_neg hlength]

/-! ### The engine after passes -/

theorem searching_of_quiet (hquiet : s.Quiet) (q : Search) (henv : s.env = as) :
    s.searching false [] q as = { s with search := some q } := by
  obtain ⟨hcs, -⟩ := hquiet
  rw [State.searching, List.append_nil, latched_nil, ← henv, ← hcs]

theorem searching_eq_ran (q : Search) (hlatched : latched s.line evs = some true) :
    s.searching false evs q rest = { s.ran evs rest with search := some q } := by
  rw [State.searching, hlatched]
  rfl

theorem run_searchEngine (hn : n ≠ 0) : Proc.run (searchEngine n cmd) s =
    ((Proc.run (searchLoop cmd n n >>= fun _ => look fun s => s.searchValue.found) { s with search := some Search.start }).1,
      { (Proc.run (searchLoop cmd n n >>= fun _ => look fun s => s.searchValue.found)
        { s with search := some Search.start }).2 with search := none }) := by
  rw [searchEngine, if_neg hn, run_withSearch]

section
variable (hquiet : s.Quiet)
include hquiet

theorem ran_search_none (evs : List PortEvent) (rest : List Answer) :
    { s.ran evs rest with search := none } = s.ran evs rest := by
  obtain ⟨-, -, hsearch, -⟩ := hquiet
  rw [← hsearch]
  rfl

theorem run_searchEngine_ok (h : LeadsTo s false (searchLoop cmd n n) Search.start ws evs (pure ()) q) (hn : n ≠ 0)
    (hlatched : latched s.line evs = some true) (henv : s.env = as ++ rest) (hf : fits ws as = true) :
    Proc.run (searchEngine n cmd) s = (.ok q.found, s.ran evs rest) := by
  have hloop := h.ok [] as rest hf
  rw [searching_of_quiet hquiet _ henv, run_pure, List.nil_append, searching_eq_ran q hlatched] at hloop
  rw [run_searchEngine hn, run_bind_ok hloop]
  exact congrArg (Except.ok q.found, ·) (ran_search_none hquiet evs rest)

theorem run_searchEngine_failedAt {m : Proc Unit} (h : LeadsTo s false (searchLoop cmd n n) Search.start ws evs m q)
    (hn : n ≠ 0) {a : Answer} (hj : j < ws.length) (hf : fits (ws.take j) as = true) (hfail : a.status ≠ 0)
    (henv : s.env = as ++ a :: rest) :
    Proc.run (searchEngine n cmd) s = (.error (.err .transport), s.failedAt evs j rest) := by
  obtain ⟨q', hloop⟩ := h.fails [] j as a rest hj hf hfail
  rw [searching_of_quiet hquiet _ henv, callCount, List.countP_nil, Nat.zero_add, List.nil_append] at hloop
  have hstate : { s.searchFailed false evs j q' rest with search := none } = s.failedAt evs j rest := by
    obtain ⟨-, -, hsearch, -⟩ := hquiet
    rw [← hsearch]
    rfl
  rw [run_searchEngine hn, run_bind_error hloop]
  exact congrArg (Except.error _, ·) hstate

/-- Where the search goes on with a pass, a reset that fails ends it, in the state the reset run by itself ends in. -/
theorem run_searchEngine_reset_error {c : Cause} (h : LeadsTo s false (searchLoop cmd n n) Search.start ws evs
      (searchLoop cmd n (fuel + 1)) q) (hn : n ≠ 0) (hlatched : latched s.line evs = some true) (henv : s.env = as ++ rest)
    (hf : fits ws as = true) (hreset : Proc.run (busReset .std) (s.ran evs rest) = (.error (.err c), t)) :
    Proc.run (searchEngine n cmd) s = (.error (.err c), t) := by
  have hsearch : t.search = none := by
    have hkept := (ignoresSearch_busReset .std).search_eq (s.ran evs rest)
    rw [hreset] at hkept
    obtain ⟨-, -, hsearch, -⟩ := hquiet
    exact hkept.trans hsearch
  have hreset' : Proc.run (busReset .std) { s.ran evs rest with search := some q } =
      (.error (.err c), { t with search := some q }) := by
    rw [ignoresSearch_busReset .std (s.ran evs rest) (some q), hreset]
  have hpass : Proc.run (searchLoop cmd n (fuel + 1)) { s.ran evs rest with search := some q } =
      (.error (.err c), { t with search := some q }) := run_bind_error (run_bind_error hreset')
  have hloop := h.ok [] as rest hf
  rw [searching_of_quiet hquiet _ henv, List.nil_append, searching_eq_ran q hlatched, hpass] at hloop
  rw [run_searchEngine hn, run_bind_error hloop, ← hsearch]

end

/-! ### The statements -/

/-- SEARCH_ROM and SEARCH_ENGINE where the engine, with whatever command byte, finds `found`. -/
theorem exec_searches_of_run_ok {n : Byte} {found : List Bytes8} {evs : Byte → List PortEvent} (hn : n.toNat ≤ 64)
    (h : ∀ cmd, Proc.run (searchEngine n.toNat cmd) s = (.ok found, s.ran (evs cmd) rest)) :
    (s.Ready → exec (.searchRom n) s = .next ((s.ran (evs 0xF0) rest).reply
      (hostReply 0 .ok (.search (BitVec.ofNat 8 found.length) found)))) ∧
    ∀ cmd, exec (.searchEngine n cmd) s = .next ((s.ran (evs cmd) rest).reply (.micro (.ok (.roms found)))) :=
  ⟨fun hs => exec_searchRom_of_run_ok hs hn (h 0xF0), fun cmd => exec_searchEngine_of_run_ok (h cmd)⟩

/-- Settles O46: each pass finds the next device, and the last empties the stack or reaches the capacity. -/
theorem searchFindsEveryDeviceInOrder : Obligations.SearchFindsEveryDeviceInOrder := by
  intro s roms n polls as rest hquiet hn hn' hroms hasc hlength hks henv hfits
  have ⟨_, _, _, _, hpolls, _⟩ := hquiet
  have hne : polls ≠ [] := by
    have := List.length_pos_of_ne_nil hroms
    exact List.ne_nil_of_length_pos (by omega)
  have hfound : roms.take polls.length = roms.take n.toNat := by
    rw [hlength, ← List.take_take, List.take_length]
  have hcount : (roms.take n.toNat).length = min n.toNat roms.length := List.length_take
  rw [← hcount]
  refine exec_searches_of_run_ok (evs := fun cmd => passesTrace roms cmd polls) hn' fun cmd => ?_
  have hrun := run_searchEngine_ok hquiet (leadsTo_allPasses hasc hpolls hks hlength hne) (by omega)
    (latched_passesTrace s.line cmd hne hroms) henv hfits
  rwa [enumerated_found, hfound] at hrun

theorem singlePass_eq (r : Bytes8) (k1 k2 : Nat) : singlePass r k1 k2 = populationPass [r] r k1 k2 := by
  have hactive : ∀ p, activeAt [r] r p = [r] := fun p => by simp [activeAt]
  simp only [singlePass, populationPass, populationPrefix, hactive, List.all_cons, List.all_nil, Bool.and_true]

/-- Settles O45: a line with one device is a population of one. -/
theorem searchFindsASingleDevice : Obligations.SearchFindsASingleDevice := by
  intro s r n k1 k2 as rest hquiet hn hn' hk henv hfits
  have hone : min n.toNat [r].length = 1 := Nat.min_eq_right hn
  have hfound : [r].take n.toNat = [r] := List.take_of_length_le hn
  have hsearch := searchFindsEveryDeviceInOrder s [r] n [(k1, k2)] as rest hquiet hn hn' (List.cons_ne_nil r [])
    (List.pairwise_singleton _ r) hone.symm (by simpa using hk) henv (by simpa [singlePass_eq] using hfits)
  rw [hone, hfound] at hsearch
  simpa using hsearch

/-- Settles O47: the pass that no device answers ends with what the passes before it found. -/
theorem searchEndsWhenNoDeviceResponds : Obligations.SearchEndsWhenNoDeviceResponds := by
  intro s roms r n polls k1 k2 p as rest hquiet hn' hlt hasc hr hks hk hp hp' henv hfits
  have ⟨_, _, _, _, hpolls, _⟩ := hquiet
  obtain ⟨hlt', -⟩ := List.getElem?_eq_some_iff.1 hr
  have hcount : (roms.take polls.length).length = polls.length := List.length_take_of_le hlt'.le
  suffices h : ∀ cmd, Proc.run (searchEngine n.toNat cmd) s = (.ok (roms.take polls.length),
      s.ran (passesTrace roms cmd polls ++ passPrefixTrace r cmd (k1 + k2) (p - 1) ++ tripletNoneTrace) rest) by
    have hends := exec_searches_of_run_ok hn' h
    rwa [hcount] at hends
  intro cmd
  obtain ⟨q, hpass, hfound⟩ := leadsTo_searchPass_noResponse (cmd := cmd) hasc hr hpolls hk hp hp'
  have hloop : LeadsTo s false (searchLoop cmd n.toNat (n.toNat - polls.length)) (enumerated roms polls.length)
      (populationPrefix roms r k1 k2 (p - 1) ++ (slotRead true ++ slotRead true))
      (passPrefixTrace r cmd (k1 + k2) (p - 1) ++ tripletNoneTrace) (pure ()) q := by
    rw [show n.toNat - polls.length = n.toNat - polls.length - 1 + 1 by omega, searchLoop]
    exact hpass.bind_silent (.refl _)
  have hsearch := ((leadsTo_passes hasc hpolls hks hlt hlt').trans hloop).congr (List.append_assoc ..).symm
    (List.append_assoc ..).symm
  rw [← hfound]
  rw [List.append_assoc] at hfits
  refine run_searchEngine_ok hquiet hsearch (by omega) ?_ henv ?_
  · rw [latched_append]
    rfl
  · exact hfits

theorem reply_inj {s t : State} {r r' : Reply} (h : s.reply r = t.reply r') : s = t ∧ r = r' := by
  obtain ⟨hreplies, hr⟩ := List.append_inj' (congrArg State.replies h) rfl
  have hrest : { s.reply r with replies := s.replies } = { t.reply r' with replies := t.replies } := by rw [h, hreplies]
  exact ⟨hrest, List.singleton_inj.1 hr⟩

/-- A reset run by itself that ends with an error ends so as a sequence. -/
theorem run_busReset_of_exec {c : Cause} (h : exec .resetStd s = .next (t.reply (.micro (.err c)))) :
    Proc.run (busReset .std) s = (.error (.err c), t) := by
  have hfails := failsOnly_busReset .std s
  rcases hrun : Proc.run (busReset .std) s with ⟨e | _, u⟩
  · rw [hrun] at hfails
    obtain ⟨c', rfl⟩ : ∃ c', e = .err c' := by
      obtain rfl | rfl := hfails e rfl <;> exact ⟨_, rfl⟩
    have hexec : exec .resetStd s = .next (u.reply (.micro (.err c'))) := microUnit_of_run_error hrun
    obtain ⟨rfl, hreply⟩ := reply_inj (Host.Outcome.next.inj (hexec.symm.trans h))
    cases hreply
    rfl
  · have hexec : exec .resetStd s = .next (u.reply microOk) := microUnit_of_run_ok hrun
    obtain ⟨-, hreply⟩ := reply_inj (Host.Outcome.next.inj (hexec.symm.trans h))
    cases hreply

/-- SEARCH_ROM makes the engine's result its response (R240). -/
theorem exec_searchRom_eq_respondFor {n : Byte} (hs : s.Ready) (hn : n.toNat ≤ 64) :
    ∃ t, exec (.searchEngine n 0xF0) s = .next t ∧ exec (.searchRom n) s = .next (respondFor searchOutput s t) := by
  have hframe := framed_searchEngine n.toNat 0xF0 s
  obtain ⟨found, t, hrun, -⟩ | ⟨c, t, hrun, hc⟩ := run_searchEngine_cases n.toNat 0xF0 s <;> rw [hrun] at hframe <;>
    have hreplies : t.replies = s.replies := hframe.replies
  · refine ⟨_, exec_searchEngine_of_run_ok hrun, ?_⟩
    rw [exec_searchRom_of_run_ok hs hn hrun, respondFor, State.reply_replies, hreplies, List.drop_left]
    simp [State.reply, searchOutput, hreplies]
  · refine ⟨_, exec_searchEngine_of_run_error hrun, ?_⟩
    have hstatus : HostOp.status .searchRom c = 1 := by obtain rfl | rfl := hc <;> rfl
    rw [exec_searchRom_of_run_error hs hn hrun, hstatus, respondFor, State.reply_replies, hreplies, List.drop_left]
    simp [State.reply, hreplies]

/-- Settles O48: after passes that succeed the search goes on with a pass, whose reset or any of whose calls may fail. -/
theorem searchFailureReturnsNoIdentifiers : Obligations.SearchFailureReturnsNoIdentifiers := by
  intro s n hquiet hn
  have ⟨_, _, _, _, hpolls, _⟩ := hquiet
  refine ⟨fun hs => exec_searchRom_eq_respondFor hs hn, ?_⟩
  intro roms r polls cmd hlt hasc hr hks
  obtain ⟨hlt', -⟩ := List.getElem?_eq_some_iff.1 hr
  have hpasses := leadsTo_passes (cmd := cmd) hasc hpolls hks hlt hlt'
  rw [show n.toNat - polls.length = n.toNat - polls.length - 1 + 1 by omega] at hpasses
  refine ⟨fun as rest t c hne henv hfits hexec => ?_, ?_⟩
  · have hreset := run_busReset_of_exec hexec
    have hrun := run_searchEngine_reset_error hquiet hpasses (by omega)
      (latched_passesTrace s.line cmd hne (List.ne_nil_of_length_pos (by omega))) henv hfits hreset
    refine ⟨exec_searchEngine_of_run_error hrun, ?_⟩
    rintro hs rfl
    have hstatus : HostOp.status .searchRom c = 1 := by
      have hfails := failsOnly_busReset .std (s.ran (passesTrace roms 0xF0 polls) rest) (.err c) (by rw [hreset])
      obtain hc | hc := hfails <;> cases hc <;> rfl
    rw [exec_searchRom_of_run_error hs hn hrun, hstatus]
  · rintro k1 k2 hk _ _ rfl rfl
    have hsearch := hpasses.trans (leadsTo_searchLoop hasc hr hpolls hk)
    refine ⟨fun j as a rest hj hf hfail henv => ?_, ?_⟩
    · exact exec_searchEngine_of_run_error (run_searchEngine_failedAt hquiet hsearch (by omega) hj hf hfail henv)
    · rintro hs rfl j as a rest hj hf hfail henv
      exact exec_searchRom_of_run_error hs hn (run_searchEngine_failedAt hquiet hsearch (by omega) hj hf hfail henv)

end Sys2Proof.Machine
end

section
/-! CRC-16 (45_memory_transactions.md R270 to R272). A step of the update is linear and loses no information, so running it over a
word of message is running it over the CRC xor that word, and the residue of a readback determines its two CRC bytes. -/

namespace Sys2Proof.Machine

/-- Settles O49: each message is run through the update. -/
theorem crcOfTheSpecsMessages : Obligations.CrcOfTheSpecsMessages := by
  unfold Obligations.CrcOfTheSpecsMessages
  decide +kernel

theorem crcStep_eq (v : Half) : crcStep v = v >>> 1 ^^^ (if v.getLsbD 0 then cfg.crcPoly else 0) := by
  rw [crcStep]
  cases v.getLsbD 0
  · exact (BitVec.xor_zero).symm
  · rfl

theorem crcStep_xor (a b : Half) : crcStep (a ^^^ b) = crcStep a ^^^ crcStep b := by
  have hpoly : (if (a ^^^ b).getLsbD 0 then cfg.crcPoly else 0) =
      (if a.getLsbD 0 then cfg.crcPoly else 0) ^^^ (if b.getLsbD 0 then cfg.crcPoly else 0) := by
    rw [BitVec.getLsbD_xor]
    cases a.getLsbD 0 <;> cases b.getLsbD 0 <;> rfl
  rw [crcStep_eq, crcStep_eq, crcStep_eq, hpoly, BitVec.ushiftRight_xor_distrib]
  ac_rfl

theorem crcSteps_xor (n : Nat) (a b : Half) : crcSteps n (a ^^^ b) = crcSteps n a ^^^ crcSteps n b := by
  induction n generalizing a b with
  | zero => rfl
  | succ n ih => rw [crcSteps, crcStep_xor, ih, crcSteps, crcSteps]

/-- The bit shifted out of a step comes back as the top bit, which the polynomial has and the shifted word has not. -/
theorem crcStep_getLsbD_top (v : Half) : (crcStep v).getLsbD 15 = v.getLsbD 0 := by
  rw [crcStep_eq, BitVec.getLsbD_xor, BitVec.getLsbD_ushiftRight, BitVec.getLsbD_of_ge _ _ (by decide)]
  cases v.getLsbD 0 <;> rfl

theorem crcStep_injective : Function.Injective crcStep := by
  intro a b h
  have hlow : a.getLsbD 0 = b.getLsbD 0 := by rw [← crcStep_getLsbD_top, ← crcStep_getLsbD_top, h]
  have hshift : a >>> 1 = b >>> 1 := by
    rw [crcStep_eq, crcStep_eq, hlow] at h
    exact BitVec.xor_left_inj _ |>.1 h
  apply BitVec.eq_of_getLsbD_eq
  rintro (_ | i) hi
  · exact hlow
  · rw [Nat.add_comm, ← BitVec.getLsbD_ushiftRight, hshift, BitVec.getLsbD_ushiftRight]

theorem crcSteps_injective (n : Nat) : Function.Injective (crcSteps n) := by
  induction n with
  | zero => exact Function.injective_id
  | succ n ih => exact ih.comp crcStep_injective

theorem crcSteps_add (m n : Nat) (v : Half) : crcSteps (m + n) v = crcSteps n (crcSteps m v) := by
  induction m generalizing v with
  | zero => rw [Nat.zero_add, crcSteps]
  | succ m ih => rw [Nat.succ_add, crcSteps, ih, crcSteps]

/-- Zeros are shifted out without a trace. -/
theorem crcSteps_eq_ushiftRight (n : Nat) {v : Half} (h : ∀ i < n, v.getLsbD i = false) : crcSteps n v = v >>> n := by
  induction n generalizing v with
  | zero => rfl
  | succ n ih =>
    have hstep : crcStep v = v >>> 1 := by rw [crcStep, h 0 (Nat.succ_pos n)]; rfl
    have hrest : ∀ i < n, (v >>> 1).getLsbD i = false := fun i hi => by
      rw [BitVec.getLsbD_ushiftRight, h _ (by omega)]
    rw [crcSteps, hstep, ih hrest, ← BitVec.shiftRight_add, Nat.add_comm]

/-- A byte enters the same eight steps earlier, as the high byte of a word. -/
theorem crcSteps_shiftLeft (x : Byte) : crcSteps 8 (x.setWidth 16 <<< 8) = x.setWidth 16 := by
  rw [crcSteps_eq_ushiftRight]
  · apply BitVec.eq_of_getLsbD_eq
    intro i hi
    have hbit : x.getLsbD i = true → 8 + i < 16 := fun h => by have := BitVec.lt_of_getLsbD h; omega
    simpa using fun _ => hbit
  · intro i hi
    simp [hi]

/-- Two bytes of a message are one word of it, the first byte low. -/
theorem crcFrom_pair (crc : Half) (lo hi : Byte) : crcFrom crc [lo, hi] = crcSteps 16 (crc ^^^ half lo hi) := by
  have hhalf : half lo hi = lo.setWidth 16 ^^^ hi.setWidth 16 <<< 8 := by
    apply BitVec.eq_of_getLsbD_eq
    intro i hi
    by_cases hlow : i < 8
    · simp [half, hlow]
    · simp [half, BitVec.getLsbD_of_ge lo i (by omega)]
  calc crcFrom crc [lo, hi]
      = crcSteps 8 (crcSteps 8 (crc ^^^ lo.setWidth 16) ^^^ crcSteps 8 (hi.setWidth 16 <<< 8)) := by
        rw [crcSteps_shiftLeft]
        rfl
    _ = crcSteps 16 (crc ^^^ half lo hi) := by
        rw [← crcSteps_xor, ← crcSteps_add, hhalf, BitVec.xor_assoc]

theorem half_eq_iff (lo hi : Byte) (v : Half) : half lo hi = v ↔ lo = lo8 v ∧ hi = hi8 v := by
  constructor
  · rintro rfl
    simpa [encodeHalf, eq_comm] using encodeHalf_half lo hi
  · rintro ⟨rfl, rfl⟩
    exact half_lo8_hi8 v

/-- Settles O50: 0xB001 is what the update makes of sixteen ones, so the word of the two CRC bytes completes the CRC of the
message to ones. -/
theorem crcResidueIffComplementedReadback : Obligations.CrcResidueIffComplementedReadback := by
  intro msg lo hi
  have hresidue : crcSteps 16 (BitVec.allOnes 16) = 0xB001 := by decide +kernel
  have hpair : crc16 (msg ++ [lo, hi]) = crcSteps 16 (crc16 msg ^^^ half lo hi) := by
    rw [← crcFrom_pair, crc16, crcFrom, List.foldl_append]
    rfl
  refine ⟨beq_iff_eq, ?_⟩
  rw [hpair, ← hresidue, (crcSteps_injective 16).eq_iff, ← half_eq_iff, BitVec.not_def, BitVec.xor_comm,
    ← BitVec.xor_left_inj (crc16 msg) (x := half lo hi), BitVec.xor_assoc, BitVec.xor_self, BitVec.xor_zero]

end Sys2Proof.Machine
end

section
/-! Memory transactions on a frame without a bus failure (45_memory_transactions.md R272 to R298). The parts of a transaction are
described with the calls they make (`Transacts`); what is left to say is how a transaction ends once its calls have succeeded,
which is decided by the bytes read (`EndsAs`). -/

namespace Sys2Proof.Machine

open Proc

variable {α β : Type} {s : State} {tx tx' tx'' : Option ScratchTx} {ws ws' : List Wanted} {evs evs' : List PortEvent}

/-- In the middle of a transaction that began in `s`, the sequence makes the calls `ws` with the trace `evs`, and where they all
succeed it ends as `r` says. -/
def Proc.EndsAs (s : State) (m : Proc α) (tx : Option ScratchTx) (ws : List Wanted) (evs : List PortEvent) (r : Except Stop α)
    (tx' : Option ScratchTx) : Prop :=
  ∀ pre as rest, fits ws as = true → run m (s.midway pre tx (as ++ rest)) = (r, s.midway (pre ++ evs) tx' rest)

section
variable {m : Proc α} {f : α → Proc β} {v : α} {r : Except Stop α} {r' : Except Stop β}

theorem Proc.EndsAs.congr (h : EndsAs s m tx ws evs r tx') (hws : ws = ws') (hevs : evs = evs') :
    EndsAs s m tx ws' evs' r tx' := by
  rwa [← hws, ← hevs]

/-- A sequence that makes no call. -/
theorem Proc.EndsAs.of_run (h : ∀ pre env, run m (s.midway pre tx env) = (r, s.midway pre tx' env)) :
    EndsAs s m tx [] [] r tx' := by
  intro pre as rest hf
  obtain rfl := (fits_nil as).1 hf
  rw [List.append_nil]
  exact h pre rest

theorem Proc.Transacts.bind_endsAs (hm : Transacts s m tx ws evs v tx') (hf : EndsAs s (f v) tx' ws' evs' r' tx'') :
    EndsAs s (m >>= f) tx (ws ++ ws') (evs ++ evs') r' tx'' := by
  intro pre as rest hfits
  obtain ⟨as1, as2, rfl, hfits1, hfits2⟩ := (fits_append ..).1 hfits
  rw [List.append_assoc, run_bind_ok (hm.ok pre as1 _ hfits1), hf _ as2 rest hfits2, List.append_assoc]

theorem Proc.Silent.bind_endsAs (hm : Silent s m tx v tx') (hf : EndsAs s (f v) tx' ws' evs' r' tx'') :
    EndsAs s (m >>= f) tx ws' evs' r' tx'' := hm.transacts.bind_endsAs hf

theorem Proc.EndsAs.bind_error {e : Stop} (h : EndsAs s m tx ws evs (.error e) tx') (f : α → Proc β) :
    EndsAs s (m >>= f) tx ws evs (.error e) tx' :=
  fun pre as rest hf => run_bind_error (h pre as rest hf)

theorem Proc.EndsAs.bind_pure (h : EndsAs s m tx ws evs r tx') (g : α → β) :
    EndsAs s (m >>= fun v => pure (g v)) tx ws evs (r.map g) tx' := by
  intro pre as rest hf
  rw [run_bind, h pre as rest hf]
  cases r <;> rfl

/-- The scratchpad transaction exists while the sequence runs, and is discarded however it ends. -/
theorem Proc.EndsAs.withTx {ta : Half} {data : List Byte} (h : EndsAs s m (some ⟨ta, data, cfg.crcInit, []⟩) ws evs r tx') :
    EndsAs s (withTx ta data m) none ws evs r none := by
  intro pre as rest hf
  have hopen : { s.midway pre none (as ++ rest) with tx := some ⟨ta, data, cfg.crcInit, []⟩ } =
      s.midway pre (some ⟨ta, data, cfg.crcInit, []⟩) (as ++ rest) := rfl
  rw [run_withTx, hopen, h pre as rest hf]
  rfl

/-- A whole transaction, from the state between requests. -/
theorem Proc.EndsAs.run_eq (h : EndsAs s m none ws evs r none) (hquiet : s.Quiet) {as rest : List Answer}
    (henv : s.env = as ++ rest) (hf : fits ws as = true) (hlatched : ∀ line, latched line evs = some true) :
    run m s = (r, s.ran evs rest) := by
  obtain ⟨hcs, htx, -⟩ := hquiet
  have hrun := h [] as rest hf
  rw [← midway_ran s [] none s.env rest hlatched, ← henv, midway_of_quiet hcs htx] at hrun
  exact hrun

end

/-! ### Where a transaction leaves the line -/

theorem latched_bytesWriteTrace (p : Prof) (x : Byte) (xs : List Byte) (line : Option Bool) :
    latched line (bytesWriteTrace p (x :: xs)) = some true := by
  have hbyte : ∀ line y, latched line (byteWriteTrace p y) = some true := fun line y => by
    rw [byteWriteTrace, latched, latched_append, latched_flatMap (latched_writeSlotTrace p.timing)]
    rfl
  rw [bytesWriteTrace, latched_flatMap hbyte]
  rfl

theorem latched_bytesReadTrace (p : Prof) (n : Nat) (line : Option Bool) :
    latched line (bytesReadTrace p n) = if n = 0 then line else some true := by
  rw [bytesReadTrace, latched_flatMap fun _ _ => rfl, List.length_range]

theorem latched_append_of_latched {a b : List PortEvent} (h : ∀ line, latched line b = some true) (line : Option Bool) :
    latched line (a ++ b) = some true := by
  rw [latched_append, h]

/-! ### The bytes read decide -/

theorem transacts_readBytes (hacc : s.acc = none) (tx : Option ScratchTx) (p : Prof) (xs : List Byte) :
    Transacts s (readBytes p xs.length) tx (bytesRead xs) (bytesReadTrace p xs.length) xs tx := by
  induction xs with
  | nil => exact (silent_pure s tx []).transacts
  | cons x xs ih =>
    rw [bytesRead_cons, List.length_cons, bytesReadTrace_succ]
    exact (transacts_readByte hacc tx p x).bind (ih.bind_silent (silent_pure s tx (x :: xs)))

theorem transacts_readStatus (hacc : s.acc = none) (t : ScratchTx) (p : Prof) (x : Byte) :
    Transacts s (readStatus p) (some t) (bytesRead [x]) (byteReadTrace p) x
      (some { t with readback := t.readback ++ [x] }) :=
  (transacts_readByte hacc (some t) p x).bind_silent fun _ _ => rfl

/-- A byte that must have a value, and what is decided after it. -/
theorem endsAs_require_bind (x y : Byte) (c : Cause) {f : Unit → Proc α} {r : Except Stop α}
    (h : EndsAs s (f ()) tx [] [] r tx) :
    EndsAs s (require (x == y) c >>= f) tx [] [] (if x ≠ y then .error (.err c) else r) tx := by
  by_cases hxy : x = y
  · have hok : Silent s (require (x == y) c) tx () tx := fun pre env => by rw [run_require, if_pos (beq_iff_eq.2 hxy)]
    rw [if_neg (not_not.2 hxy)]
    exact hok.bind_endsAs h
  · have herror : EndsAs s (require (x == y) c) tx [] [] (.error (.err c)) tx :=
      .of_run fun pre env => by rw [run_require, if_neg (by rwa [beq_iff_eq])]
    rw [if_pos hxy]
    exact herror.bind_error f

theorem endsAs_pure (s : State) (tx : Option ScratchTx) (v : α) : EndsAs s (pure v) tx [] [] (.ok v) tx :=
  (silent_pure s tx v).transacts.ok

theorem endsAs_require (s : State) (tx : Option ScratchTx) (x y : Byte) (c : Cause) :
    EndsAs s (require (x == y) c) tx [] [] (if x ≠ y then .error (.err c) else .ok ()) tx := by
  have h := endsAs_require_bind x y c (endsAs_pure s tx ())
  rwa [bind_pure] at h

theorem endsAs_checkCrc_error (s : State) {t : ScratchTx} (hcrc : t.crc ≠ 0xB001) :
    EndsAs s checkCrc (some t) [] [] (.error (.err .crc)) (some t) := by
  have hrejects : crcAccepts t.crc = false := beq_false_of_ne hcrc
  refine .of_run fun pre env => ?_
  rw [checkCrc, run_bind_ok (silent_look_txValue s t pre env), hrejects]
  rfl

/-- The CRC of the transaction, and what is decided after it. -/
theorem endsAs_checkCrc_bind (t : ScratchTx) {f : Unit → Proc α} {r : Except Stop α}
    (h : EndsAs s (f ()) (some t) [] [] r (some t)) :
    EndsAs s (checkCrc >>= f) (some t) [] [] (if t.crc ≠ 0xB001 then .error (.err .crc) else r) (some t) := by
  by_cases hcrc : t.crc = 0xB001
  · rw [if_neg (not_not.2 hcrc)]
    exact (silent_checkCrc s hcrc).bind_endsAs h
  · rw [if_pos hcrc]
    exact (endsAs_checkCrc_error s hcrc).bind_error f

theorem endsAs_copyFrame (hacc : s.acc = none) (t : ScratchTx) (p : Prof) (x : Byte) :
    EndsAs s (copyFrame p) (some t) (bytesWritten 4 ++ bytesRead [x])
      (bytesWriteTrace p [0x55, lo8 t.ta, hi8 t.ta, 0x07] ++ ([.dms 10] ++ byteReadTrace p))
      (if x ≠ 0xAA then .error (.err .response) else .ok ()) (some { t with readback := t.readback ++ [x] }) :=
  .congr ((silent_look_txValue s t).bind_endsAs <|
    (transacts_writeBytes s (some t) p [0x55, lo8 t.ta, hi8 t.ta, 0x07]).bind_endsAs <|
      (transacts_delayMs s (some t) 10).bind_endsAs <| (transacts_readStatus hacc t p x).bind_endsAs <|
        endsAs_require s _ x 0xAA .response) (by simp) (by simp)

theorem crc16_append_pair (msg : List Byte) (lo hi : Byte) :
    crc16 (msg ++ [lo, hi]) = crcUpd (crcUpd (crc16 msg) lo) hi := by
  rw [crc16, crcFrom, List.foldl_append]
  rfl

/-! ### The scratchpad operations -/

section
variable {k1 k2 : Nat} (hacc : s.acc = none) (hpolls : s.polls = none) (ha : s.Addressable k1 k2)
include hacc hpolls ha

/-- The CRC decides before the status byte (R275). -/
theorem endsAs_writeScratchpadBody (hs : s.Ready) {addr : Half} (halign : addr.toNat % 8 = 0) (hbelow : addr.toNat < 0x80)
    (data : Bytes8) (lo hi x : Byte) :
    EndsAs s (writeScratchpadBody addr data) none (addressed s.mode k1 k2 ++ bytesWritten 11 ++ bytesRead [lo, hi, x])
      (addressTrace s.mode s.rom (k1 + k2)
        ++ bytesWriteTrace (modeFunction s.mode) ([0x0F, lo8 addr, hi8 addr] ++ data.toList)
        ++ bytesReadTrace (modeFunction s.mode) 3)
      (Except.map (fun _ => Output.none) <|
        if crc16 ([0x0F, lo8 addr, hi8 addr] ++ data.toList ++ [lo, hi]) ≠ 0xB001 then .error (.err .crc)
        else if x ≠ 0xFF then .error (.err .statusByte) else .ok ()) none := by
  have ⟨hmode, _, _⟩ := ha
  rw [crc16_append_pair]
  refine .congr ((silent_addressedPrelude hs hmode (run_checkPage_of_page_below halign hbelow) none).bind_endsAs <|
    EndsAs.bind_pure (EndsAs.withTx <| (transacts_addressDevices hpolls _ ha).bind_endsAs <|
      (transacts_sendWriteScratchpad s _ addr data).bind_endsAs <| (transacts_readCounted hacc _ _ lo).bind_endsAs <|
        (transacts_readCounted hacc _ _ hi).bind_endsAs <| (transacts_readStatus hacc _ _ x).bind_endsAs <|
          endsAs_checkCrc_bind _ <| endsAs_require s _ x cfg.trailOk .statusByte) _) ?_ ?_
  · simp [bytesRead]
  · simp [bytesReadTrace_succ, bytesReadTrace_zero]

theorem endsAs_copyScratchpadBody (hs : s.Ready) {addr : Half} (halign : addr.toNat % 8 = 0) (hbelow : addr.toNat < 0x80)
    (x : Byte) :
    EndsAs s (copyScratchpadBody addr) none (addressed s.mode k1 k2 ++ bytesWritten 4 ++ bytesRead [x])
      (addressTrace s.mode s.rom (k1 + k2) ++ bytesWriteTrace (modeFunction s.mode) [0x55, lo8 addr, hi8 addr, 0x07]
        ++ [.dms 10] ++ byteReadTrace (modeFunction s.mode))
      (Except.map (fun _ => Output.none) <| if x ≠ 0xAA then .error (.err .response) else .ok ()) none := by
  have ⟨hmode, _, _⟩ := ha
  simp only [List.append_assoc]
  exact (silent_addressedPrelude hs hmode (run_checkPage_of_page_below halign hbelow) none).bind_endsAs <|
    EndsAs.bind_pure (EndsAs.withTx <| (transacts_addressDevices hpolls _ ha).bind_endsAs <|
      endsAs_copyFrame hacc ⟨addr, [], cfg.crcInit, []⟩ (modeFunction s.mode) x) _

/-- All 14 bytes are read before any check; then E/S, the trailing byte and the CRC decide, in that order (R280). -/
theorem endsAs_readScratchpadBody (hs : s.Ready) (t0 t1 es : Byte) (d : Bytes8) (lo hi x : Byte) :
    EndsAs s readScratchpadBody none
      (addressed s.mode k1 k2 ++ bytesWritten 1 ++ bytesRead ([t0, t1, es] ++ d.toList ++ [lo, hi, x]))
      (addressTrace s.mode s.rom (k1 + k2) ++ byteWriteTrace (modeFunction s.mode) 0xAA
        ++ bytesReadTrace (modeFunction s.mode) 14)
      (if es ≠ 0x07 then .error (.err .statusByte) else if x ≠ 0xFF then .error (.err .statusByte)
        else if crc16 ([0xAA, t0, t1, es] ++ d.toList ++ [lo, hi]) ≠ 0xB001 then .error (.err .crc)
        else .ok (.scratchpad (half t0 t1) d)) none := by
  have ⟨hmode, _, _⟩ := ha
  have hcrc : crc16 ([0xAA, t0, t1, es] ++ d.toList ++ [lo, hi]) =
      crcUpd (crcUpd (crcFrom (crcUpd (crcUpd (crcUpd (crcFrom cfg.crcInit [0xAA]) t0) t1) es) d.toList) lo) hi := by
    simp only [crc16, crcFrom, List.foldl_append, List.foldl_cons, List.foldl_nil]
  rw [hcrc]
  refine .congr ((silent_addressedPrelude (check := noArgument) hs hmode (fun _ => rfl) none).bind_endsAs <|
    EndsAs.withTx <| (transacts_addressDevices hpolls _ ha).bind_endsAs <|
      (transacts_sendCounted s _ _ [0xAA]).bind_endsAs <| (transacts_readCounted hacc _ _ t0).bind_endsAs <|
        (transacts_readCounted hacc _ _ t1).bind_endsAs <| (silent_updateTx s _ _).bind_endsAs <|
          (transacts_readCounted hacc _ _ es).bind_endsAs <| (transacts_readDataCounted hacc _ _ d.toList).bind_endsAs <|
            (transacts_readCounted hacc _ _ lo).bind_endsAs <| (transacts_readCounted hacc _ _ hi).bind_endsAs <|
              (transacts_readStatus hacc _ _ x).bind_endsAs <| endsAs_require_bind es cfg.esExpect _ <|
                endsAs_require_bind x cfg.trailOk _ ?_) ?_ ?_
  · dsimp only
    exact endsAs_checkCrc_bind _ ((silent_look_txValue s _).bind_endsAs (endsAs_pure s _ _))
  · simp [bytesRead]
  · simp [bytesWriteTrace, bytesReadTrace_succ, bytesReadTrace_zero, Bytes8.toList]

theorem transacts_memoryRead (addr : Half) (bs : List Byte) :
    Transacts s (memoryRead addr bs.length) none (addressed s.mode k1 k2 ++ bytesWritten 3 ++ bytesRead bs)
      (addressTrace s.mode s.rom (k1 + k2) ++ bytesWriteTrace (modeFunction s.mode) [0xF0, lo8 addr, hi8 addr]
        ++ bytesReadTrace (modeFunction s.mode) bs.length) bs none := by
  rw [List.append_assoc, List.append_assoc]
  exact (transacts_addressDevices hpolls none ha).bind <|
    (transacts_writeBytes s none _ [cfg.cmdReadMemory, lo8 addr, hi8 addr]).bind (transacts_readBytes hacc none _ bs)

/-- A readback that does not verify ends PAGE_WRITE in its first session. -/
theorem endsAs_pageWrite_of_crc_ne (addr : Half) (data : Bytes8) (lo hi : Byte)
    (hcrc : crc16 ([0x0F, lo8 addr, hi8 addr] ++ data.toList ++ [lo, hi]) ≠ 0xB001) :
    EndsAs s (pageWrite addr data.toList) none (addressed s.mode k1 k2 ++ bytesWritten 11 ++ bytesRead [lo, hi])
      (addressTrace s.mode s.rom (k1 + k2)
        ++ bytesWriteTrace (modeFunction s.mode) ([0x0F, lo8 addr, hi8 addr] ++ data.toList)
        ++ bytesReadTrace (modeFunction s.mode) 2) (.error (.err .crc)) none := by
  rw [crc16_append_pair] at hcrc
  refine .congr (EndsAs.withTx <| (transacts_addressDevices hpolls _ ha).bind_endsAs <|
    (transacts_sendWriteScratchpad s _ addr data).bind_endsAs <| (transacts_readCounted hacc _ _ lo).bind_endsAs <|
      (transacts_readCounted hacc _ _ hi).bind_endsAs <| (endsAs_checkCrc_error s hcrc).bind_error _) ?_ ?_
  · simp [bytesRead]
  · simp [bytesReadTrace_succ, bytesReadTrace_zero]

/-- A readback that verifies leads to the second session, whose status byte decides. -/
theorem endsAs_pageWrite_of_crc_eq (addr : Half) (data : Bytes8) (lo hi x : Byte) {k3 k4 : Nat}
    (hk : PollsWithin (modeReset s.mode) k3 k4)
    (hcrc : crc16 ([0x0F, lo8 addr, hi8 addr] ++ data.toList ++ [lo, hi]) = 0xB001) :
    EndsAs s (pageWrite addr data.toList) none
      (addressed s.mode k1 k2 ++ bytesWritten 11 ++ bytesRead [lo, hi]
        ++ (addressed s.mode k3 k4 ++ bytesWritten 4 ++ bytesRead [x]))
      (addressTrace s.mode s.rom (k1 + k2)
        ++ bytesWriteTrace (modeFunction s.mode) ([0x0F, lo8 addr, hi8 addr] ++ data.toList)
        ++ bytesReadTrace (modeFunction s.mode) 2 ++ addressTrace s.mode s.rom (k3 + k4)
        ++ bytesWriteTrace (modeFunction s.mode) [0x55, lo8 addr, hi8 addr, 0x07] ++ [.dms 10]
        ++ byteReadTrace (modeFunction s.mode))
      (if x ≠ 0xAA then .error (.err .response) else .ok ()) none := by
  have ⟨hmode, hrom, _⟩ := ha
  rw [crc16_append_pair] at hcrc
  refine .congr (EndsAs.withTx <| (transacts_addressDevices hpolls _ ha).bind_endsAs <|
    (transacts_sendWriteScratchpad s _ addr data).bind_endsAs <| (transacts_readCounted hacc _ _ lo).bind_endsAs <|
      (transacts_readCounted hacc _ _ hi).bind_endsAs <| (silent_checkCrc s hcrc).bind_endsAs <|
        (transacts_addressDevices hpolls _ ⟨hmode, hrom, hk⟩).bind_endsAs <| endsAs_copyFrame hacc _ _ x) ?_ ?_
  · simp [bytesRead]
  · simp [bytesReadTrace_succ, bytesReadTrace_zero]

end

/-- Settles O51: the frame is the operation's own, and its bytes decide. -/
theorem writeScratchpadVerifiesTheReadback : Obligations.WriteScratchpadVerifiesTheReadback := by
  intro s addr data k1 k2 lo hi x as rest hquiet hs ha halign hbelow henv hfits
  have ⟨_, _, _, hacc, hpolls, _⟩ := hquiet
  have hrun := (endsAs_writeScratchpadBody hacc hpolls ha hs halign hbelow data lo hi x).run_eq hquiet henv hfits
    (latched_append_of_latched fun line => latched_bytesReadTrace _ 3 line)
  show runHost _ (writeScratchpadBody addr data) s = _
  rw [runHost, hrun]
  split_ifs <;> rfl

/-- Settles O52: the frame is the operation's own, and its bytes decide. -/
theorem readScratchpadChecksAfterTheFrame : Obligations.ReadScratchpadChecksAfterTheFrame := by
  intro s t0 t1 es d k1 k2 lo hi x as rest hquiet hs ha henv hfits
  have ⟨_, _, _, hacc, hpolls, _⟩ := hquiet
  have hrun := (endsAs_readScratchpadBody hacc hpolls ha hs t0 t1 es d lo hi x).run_eq hquiet henv hfits
    (latched_append_of_latched fun line => latched_bytesReadTrace _ 14 line)
  show runHost _ readScratchpadBody s = _
  rw [runHost, hrun]
  split_ifs <;> rfl

/-- Settles O53: the frame is the operation's own, and its status byte decides. -/
theorem copyScratchpadWaitsThenChecks : Obligations.CopyScratchpadWaitsThenChecks := by
  intro s addr k1 k2 x as rest hquiet hs ha halign hbelow henv hfits
  have ⟨_, _, _, hacc, hpolls, _⟩ := hquiet
  have hrun := (endsAs_copyScratchpadBody hacc hpolls ha hs halign hbelow x).run_eq hquiet henv hfits
    (latched_append_of_latched fun _ => rfl)
  show runHost _ (copyScratchpadBody addr) s = _
  rw [runHost, hrun]
  split_ifs <;> rfl

end Sys2Proof.Machine
end

section
/-! The addressed host operations after their checks (45_memory_transactions.md R273, R292, R293, R297, R298), and the memory
reads on a frame without a bus failure. -/

namespace Sys2Proof.Machine

variable {s : State} {check : Proc Unit}

/-- On a ready core with a legal MODE an operation whose argument check passes is what follows its checks. -/
theorem runHost_addressedPrelude_ok (status : Cause → Byte) (hs : s.Ready) (hmode : s.ModeLegal)
    (hcheck : Proc.run check s = (.ok (), s)) (body : Unit → Proc Output) :
    runHost status (addressedPrelude check >>= body) s = runHost status (body ()) s := by
  rw [runHost, Proc.run_bind_ok (run_addressedPrelude_ok hs hcheck hmode), runHost]

theorem runHost_readBody (status : Cause → Byte) (hs : s.Ready) (hmode : s.ModeLegal) {addr len : Half}
    (hrange : addr.toNat + len.toNat ≤ 128) : runHost status (readBody addr len) s =
      runHost status (memoryRead addr len.toNat >>= fun bs => pure (.data bs)) s :=
  runHost_addressedPrelude_ok status hs hmode (run_checkRange_of_le hrange s) _

theorem exec_readConfig_eq (hs : s.Ready) (hmode : s.ModeLegal) : exec .readConfig s =
    runHost (HostOp.status .readConfig) (memoryRead 0x0080 8 >>= fun bs => pure (.config (Bytes8.ofList bs))) s :=
  runHost_addressedPrelude_ok _ hs hmode (Proc.run_pure () s) _

theorem exec_writeConfig_eq (hs : s.Ready) (hmode : s.ModeLegal) (data : Bytes8) : exec (.writeConfig data) s =
    runHost (HostOp.status .writeConfig) (pageWrite 0x0080 data.toList >>= fun _ => pure .none) s :=
  runHost_addressedPrelude_ok _ hs hmode (Proc.run_pure () s) _

/-- A host operation whose work succeeds. -/
theorem runHost_bind_pure_of_run_ok {α : Type} {m : Proc α} {v : α} {t : State} (status : Cause → Byte) (out : α → Output)
    (h : Proc.run m s = (.ok v, t)) :
    runHost status (m >>= fun v => pure (out v)) s = .next (t.reply (hostReply 0 .ok (out v))) := by
  rw [runHost, Proc.run_bind_ok h]
  rfl

/-- Settles O55: the operations are MEM_READ after their checks, and it returns the bytes read. -/
theorem memoryReadsReturnTheBytesRead : Obligations.MemoryReadsReturnTheBytesRead := by
  intro s addr len bs k1 k2 as rest hquiet ha hbs henv hfits
  have ⟨_, _, _, hacc, hpolls, _⟩ := hquiet
  have ⟨hmode, _, _⟩ := ha
  have hlatched : ∀ line, latched line (addressTrace s.mode s.rom (k1 + k2)
      ++ bytesWriteTrace (modeFunction s.mode) [0xF0, lo8 addr, hi8 addr]
      ++ bytesReadTrace (modeFunction s.mode) bs.length) = some true := fun line => by
    rw [latched_append, latched_bytesReadTrace, latched_append_of_latched (latched_bytesWriteTrace _ _ _), ite_self]
  have hrun := Proc.EndsAs.run_eq (transacts_memoryRead hacc hpolls ha addr bs).ok hquiet henv hfits hlatched
  rw [hbs] at hrun
  refine ⟨_, rfl, runMicro_bind_pure_of_run_ok (fun bs => .ok (.bytes bs)) hrun, fun hs hrange => ⟨?_, ?_⟩, ?_⟩
  · exact (runHost_readBody _ hs hmode hrange).trans (runHost_bind_pure_of_run_ok _ _ hrun)
  · exact (runHost_readBody _ hs hmode hrange).trans (runHost_bind_pure_of_run_ok _ _ hrun)
  · rintro hs rfl c rfl
    rw [← hbs] at hrun ⊢
    exact (exec_readConfig_eq hs hmode).trans
      (runHost_bind_pure_of_run_ok _ (fun bs => Output.config (Bytes8.ofList bs)) hrun)

end Sys2Proof.Machine
end

section
/-! What a WRITE may run inside its chunk loop. The sequences below a chunk neither read nor change the chunk cursor, and where
MODE is legal they end early only with a failure of the bus, of a readback or of a copy, or at a recorded stop
(45_memory_transactions.md R288, R290, R295). -/

namespace Sys2Proof.Machine

open Proc

variable {α β : Type}

/-- How a part of a memory operation can end early: with one of the causes of R288 and R290, or at a recorded stop. -/
def Stop.OfTransaction (e : Stop) : Prop :=
  (∃ c ∈ [Cause.transport, .noPresence, .crc, .response], e = .err c) ∨ ∃ h, e = .halt h

/-- The sequence runs the same whatever the chunk cursor, and leaves it. -/
def Proc.IgnoresCursor (m : Proc α) : Prop :=
  ∀ (s : State) (c : Option Cursor), run m { s with cursor := c } = ((run m s).1, { (run m s).2 with cursor := c })

/-- A part of a memory operation: it has nothing to do with the chunk cursor, it keeps the frame, and where MODE is legal it ends
early only as a transaction can. -/
structure Proc.Part (m : Proc α) : Prop where
  run_cursor : IgnoresCursor m
  framed : Framed m
  fails : ∀ s e, s.ModeLegal → (run m s).1 = .error e → e.OfTransaction

theorem Frame.modeLegal {s t : State} (h : Frame s t) (hs : s.ModeLegal) : t.ModeLegal := by
  rwa [State.ModeLegal, State.modeReadable, h.mode, h.modeWritten, h.unwrittenFaults]

theorem Proc.Part.cursor_eq {m : Proc α} (h : Part m) (s : State) : (run m s).2.cursor = s.cursor :=
  congrArg (fun r => r.2.cursor) (h.run_cursor s s.cursor)

/-- A sequence that never ends early. -/
theorem Proc.Part.of_ok {m : Proc α} (hcursor : IgnoresCursor m) (hframed : Framed m)
    (hok : ∀ s, ∃ v, (run m s).1 = .ok v) : Part m where
  run_cursor := hcursor
  framed := hframed
  fails s e _ he := by
    obtain ⟨v, hv⟩ := hok s
    cases hv.symm.trans he

theorem Proc.part_pure (v : α) : Part (pure v : Proc α) := .of_ok (fun _ _ => rfl) (framed_pure v) fun _ => ⟨v, rfl⟩

theorem Proc.part_look {f : State → α} (hf : ∀ (s : State) (c : Option Cursor), f { s with cursor := c } = f s) :
    Part (look f) :=
  .of_ok (fun s c => by rw [run_look, run_look, hf]) (framed_look f) fun s => ⟨f s, rfl⟩

theorem Proc.part_fail {c : Cause} (hc : c ∈ [Cause.transport, .noPresence, .crc, .response]) : Part (fail c : Proc α) where
  run_cursor _ _ := rfl
  framed := framed_fail c
  fails := by
    rintro s e - ⟨⟩
    exact .inl ⟨c, hc, rfl⟩

theorem Proc.part_stop (h : Halt) : Part (stop h : Proc α) where
  run_cursor _ _ := rfl
  framed := framed_stop h
  fails := by
    rintro s e - ⟨⟩
    exact .inr ⟨h, rfl⟩

theorem part_require (ok : Bool) {c : Cause} (hc : c ∈ [Cause.transport, .noPresence, .crc, .response]) :
    Part (require ok c) := by
  cases ok
  · exact part_fail hc
  · exact part_pure ()

theorem Proc.part_bind {m : Proc α} {f : α → Proc β} (hm : Part m) (hf : ∀ v, Part (f v)) : Part (m >>= f) where
  run_cursor s c := by
    rw [run_bind, run_bind, hm.run_cursor s c]
    rcases run m s with ⟨_ | v, t⟩
    · rfl
    · exact (hf v).run_cursor t c
  framed := framed_bind hm.framed fun v => (hf v).framed
  fails s e hs he := by
    have hframe := hm.framed s
    rcases hr : run m s with ⟨e' | v, t⟩
    · rw [run_bind_error hr] at he
      cases he
      exact hm.fails s e hs (by rw [hr])
    · rw [run_bind_ok hr] at he
      rw [hr] at hframe
      exact (hf v).fails t e (hframe.modeLegal hs) he

/-- A sequence run between two changes of transient state other than the cursor, the second made on every exit. -/
theorem Proc.part_enclosed {m : Proc α} {enter leave : State → State} (hm : Part m)
    (henter : ∀ (s : State) c, enter { s with cursor := c } = { enter s with cursor := c })
    (hleave : ∀ (s : State) c, leave { s with cursor := c } = { leave s with cursor := c })
    (hframe : ∀ s, Frame s (enter s)) (hframe' : ∀ s, Frame s (leave s)) :
    Part (update enter >>= fun _ => m.ensuring leave) where
  run_cursor s c := by
    rw [run_bind_ok (run_update _ _), run_bind_ok (run_update _ _), run_ensuring, run_ensuring, henter, hm.run_cursor, hleave]
  framed := framed_bind (framed_update hframe) fun _ => framed_ensuring hm.framed hframe'
  fails s e hs he := hm.fails (enter s) e ((hframe s).modeLegal hs) he

/-- A change of the state that has nothing to do with the cursor. -/
theorem Proc.part_update {g : State → State}
    (hg : ∀ (s : State) c, g { s with cursor := c } = { g s with cursor := c }) (hframe : ∀ s, Frame s (g s)) :
    Part (update g) :=
  .of_ok (fun s c => by rw [run_update, run_update, hg]) (framed_update hframe) fun _ => ⟨(), rfl⟩

/-! ### Calls, bits, bytes and resets -/

theorem part_callOr {e : PortEvent} (he : e.isCall = true) : Part (callOr e .transport) where
  run_cursor s c := by
    have hanswer : (({ s with cursor := c } : State).emit e).answer = (s.emit e).answer := rfl
    rw [run_callOr, run_callOr, hanswer]
    split <;> rfl
  framed := framed_callOr _ he
  fails s e _ h := by
    rw [run_callOr] at h
    split at h <;> cases h
    exact .inl ⟨.transport, by simp, rfl⟩

theorem part_emit {e : PortEvent} (he : e.isCall = false) : Part (update fun s => s.emit e) :=
  part_update (fun _ _ => rfl) fun s => .of_emit s e he

theorem part_busWrite (b : Bool) : Part (busWrite b) :=
  part_bind (part_callOr rfl) fun _ => part_update (fun _ _ => rfl) fun s => .of_transient s _ _ _ _ _ _ _

theorem part_busRead : Part busRead := part_bind (part_callOr rfl) fun _ => part_pure _

theorem part_delayUs (n : Nat) : Part (delayUs n) := part_emit rfl

theorem part_critical {m : Proc α} (hm : Part m) : Part (critical m) :=
  part_enclosed hm (fun _ _ => rfl) (fun _ _ => rfl) .of_irqOff .of_irqOn

theorem part_writeSlot (P : Profile) (b : Bool) : Part (writeSlot P b) :=
  part_bind (part_busWrite _) fun _ => part_bind (part_delayUs _) fun _ => part_bind (part_busWrite _) fun _ => part_delayUs _

theorem part_readSlot (P : Profile) : Part (readSlot P) :=
  part_bind (part_busWrite _) fun _ => part_bind (part_delayUs _) fun _ => part_bind (part_busWrite _) fun _ =>
    part_bind (part_delayUs _) fun _ => part_bind part_busRead fun _ => part_bind (part_delayUs _) fun _ => part_pure _

theorem part_writeSlots (P : Profile) : ∀ bs, Part (writeSlots P bs)
  | [] => part_pure _
  | _ :: bs => part_bind (part_writeSlot _ _) fun _ => part_writeSlots P bs

theorem part_readSlots (P : Profile) : ∀ n, Part (readSlots P n)
  | 0 => part_pure _
  | n + 1 => part_bind (part_readSlot _) fun _ =>
      part_bind (part_update (fun _ _ => rfl) fun s => .of_transient s _ _ _ _ _ _ _) fun _ => part_readSlots P n

theorem part_writeByte (p : Prof) (x : Byte) : Part (writeByte p x) := part_critical (part_writeSlots _ _)

theorem part_readByte (p : Prof) : Part (readByte p) :=
  part_enclosed (part_bind (part_critical (part_readSlots _ _)) fun _ => part_look fun _ _ => rfl) (fun _ _ => rfl)
    (fun _ _ => rfl) (fun s => .of_transient s _ _ _ _ _ _ _) fun s => .of_transient s _ _ _ _ _ _ _

theorem part_writeBytes (p : Prof) : ∀ xs, Part (writeBytes p xs)
  | [] => part_pure _
  | _ :: xs => part_bind (part_writeByte _ _) fun _ => part_writeBytes p xs

theorem part_readBytes (p : Prof) : ∀ n, Part (readBytes p n)
  | 0 => part_pure _
  | n + 1 => part_bind (part_readByte _) fun _ => part_bind (part_readBytes p n) fun _ => part_pure _

theorem part_pollLoop (P : Profile) (want : Bool) (budget : Nat) : ∀ fuel, Part (pollLoop P want budget fuel)
  | 0 => part_fail (by simp)
  | fuel + 1 => by
    refine part_bind part_busRead fun v =>
      part_bind (part_update (fun _ _ => rfl) fun s => .of_transient s _ _ _ _ _ _ _) fun _ =>
        part_bind (part_delayUs _) fun _ => part_bind (part_look fun _ _ => rfl) fun k => ?_
    split
    · exact part_pure _
    · split
      · exact part_pollLoop P want budget fuel
      · exact part_fail (by simp)

theorem part_pollPhase (P : Profile) (want : Bool) (budget : Nat) : Part (pollPhase P want budget) :=
  part_enclosed (part_pollLoop _ _ _ _) (fun _ _ => rfl) (fun _ _ => rfl) (fun s => .of_transient s _ _ _ _ _ _ _)
    fun s => .of_transient s _ _ _ _ _ _ _

theorem part_busReset (p : Prof) : Part (busReset p) :=
  part_critical <| part_bind (part_busWrite _) fun _ => part_bind (part_delayUs _) fun _ =>
    part_bind (part_busWrite _) fun _ => part_bind (part_delayUs _) fun _ =>
      part_bind (part_pollPhase _ _ _) fun _ => part_pollPhase _ _ _

/-! ### Addressing -/

theorem part_readRom : Part readRom := by
  refine part_bind (part_look fun _ _ => rfl) fun readable => ?_
  split
  · exact part_look fun _ _ => rfl
  · exact part_stop _

theorem part_sendRom (p : Prof) : Part (sendRom p) := part_bind part_readRom fun _ => part_writeBytes _ _

theorem part_resetCommand (p q : Prof) (x : Byte) (v : α) :
    Part (busReset p >>= fun _ => writeByte q x >>= fun _ => pure v) :=
  part_bind (part_busReset _) fun _ => part_bind (part_writeByte _ _) fun _ => part_pure _

theorem part_resetCommandRom (p q : Prof) (x : Byte) (v : α) :
    Part (busReset p >>= fun _ => writeByte .std x >>= fun _ => sendRom q >>= fun _ => pure v) :=
  part_bind (part_busReset _) fun _ => part_bind (part_writeByte _ _) fun _ => part_bind (part_sendRom _) fun _ =>
    part_pure _

/-- The addressing sequence of a value of MODE (R212). -/
def addressIn (m : Byte) : Proc Prof :=
  match m.toNat with
  | 0 => addressSkip
  | 1 => addressOdSkip
  | 2 => addressMatch
  | 3 => addressOdMatch
  | 4 => addressResume
  | 5 => addressOdResume
  | _ => Proc.fail .modeInvalid

theorem addressDevices_eq : addressDevices = readMode >>= addressIn := rfl

theorem part_addressIn {m : Byte} (hm : m.toNat ≤ 5) : Part (addressIn m) := by
  obtain h | h | h | h | h | h :
      m.toNat = 0 ∨ m.toNat = 1 ∨ m.toNat = 2 ∨ m.toNat = 3 ∨ m.toNat = 4 ∨ m.toNat = 5 := by omega
  all_goals simp only [addressIn, h]
  · exact part_resetCommand _ _ _ _
  · exact part_resetCommand _ _ _ _
  · exact part_resetCommandRom _ _ _ _
  · exact part_resetCommandRom _ _ _ _
  · exact part_resetCommand _ _ _ _
  · exact part_resetCommand _ _ _ _

theorem addressIn_of_lt {m : Byte} (hm : 5 < m.toNat) : addressIn m = fail .modeInvalid := by
  obtain ⟨k, hk⟩ : ∃ k, m.toNat = k + 6 := ⟨_, (Nat.sub_add_cancel hm).symm⟩
  simp only [addressIn, hk]

theorem part_addressDevices : Part addressDevices where
  run_cursor s c := by
    have hreadable : ({ s with cursor := c } : State).modeReadable = s.modeReadable := rfl
    rw [addressDevices_eq, run_bind, run_bind, run_readMode, run_readMode, hreadable]
    cases s.modeReadable
    · rfl
    · obtain hm | hm := Nat.lt_or_ge 5 s.mode.toNat
      · simp only [addressIn_of_lt hm, if_true]
        rfl
      · exact (part_addressIn hm).run_cursor s c
  framed := framed_addressDevices
  fails s e hs he := by
    obtain ⟨hreadable, hlegal⟩ := hs
    rw [addressDevices_eq, run_bind_ok ((run_readMode s).trans (if_pos hreadable))] at he
    exact (part_addressIn hlegal).fails s e ⟨hreadable, hlegal⟩ he

/-! ### Memory transactions -/

theorem part_updateTx (f : ScratchTx → ScratchTx) : Part (updateTx f) :=
  part_update (fun _ _ => rfl) fun s => .of_transient s _ _ _ _ _ _ _

theorem part_withTx (ta : Half) (data : List Byte) {m : Proc α} (hm : Part m) : Part (withTx ta data m) :=
  part_enclosed hm (fun _ _ => rfl) (fun _ _ => rfl) (fun s => .of_transient s _ _ _ _ _ _ _)
    fun s => .of_transient s _ _ _ _ _ _ _

theorem part_sendCounted (p : Prof) : ∀ xs, Part (sendCounted p xs)
  | [] => part_pure _
  | _ :: xs => part_bind (part_writeByte _ _) fun _ => part_bind (part_updateTx _) fun _ => part_sendCounted p xs

theorem part_readCounted (p : Prof) : Part (readCounted p) :=
  part_bind (part_readByte _) fun _ => part_bind (part_updateTx _) fun _ => part_bind (part_updateTx _) fun _ => part_pure _

theorem part_readStatus (p : Prof) : Part (readStatus p) :=
  part_bind (part_readByte _) fun _ => part_bind (part_updateTx _) fun _ => part_pure _

theorem part_checkCrc : Part checkCrc := part_bind (part_look fun _ _ => rfl) fun _ => part_require _ (by simp)

theorem part_sendWriteScratchpad (p : Prof) : Part (sendWriteScratchpad p) :=
  part_bind (part_look fun _ _ => rfl) fun _ => part_sendCounted _ _

theorem part_copyFrame (p : Prof) : Part (copyFrame p) :=
  part_bind (part_look fun _ _ => rfl) fun _ => part_bind (part_writeBytes _ _) fun _ => part_bind (part_emit rfl) fun _ =>
    part_bind (part_readStatus _) fun _ => part_require _ (by simp)

theorem part_memoryRead (addr : Half) (len : Nat) : Part (memoryRead addr len) :=
  part_bind part_addressDevices fun _ => part_bind (part_writeBytes _ _) fun _ => part_readBytes _ _

theorem part_pageWrite (addr : Half) (data : List Byte) : Part (pageWrite addr data) :=
  part_withTx _ _ <| part_bind part_addressDevices fun _ => part_bind (part_sendWriteScratchpad _) fun _ =>
    part_bind (part_readCounted _) fun _ => part_bind (part_readCounted _) fun _ => part_bind part_checkCrc fun _ =>
      part_bind part_addressDevices fun _ => part_copyFrame _

theorem part_writeChunk (data : List Byte) (c : Cursor) : Part (writeChunk data c) := by
  unfold writeChunk
  dsimp only
  split
  · exact part_pageWrite _ _
  · exact part_bind (part_memoryRead _ _) fun _ => part_pageWrite _ _

end Sys2Proof.Machine
end

section
/-! The chunk loop of WRITE (45_memory_transactions.md R295, R296). The cursor tells where the loop is and nothing else, so the
loop is a recursion over the data that is left (`writePages`), which splits at page boundaries. -/

namespace Sys2Proof.Machine

open Proc

variable {s : State}

theorem chunkLen_eq (a off rem : Nat) : chunkLen ⟨a, off, rem⟩ = min (8 - a % 8) rem := rfl

theorem chunkLen_pos {a : Nat} {data : List Byte} (h : data ≠ []) : 0 < chunkLen ⟨a, 0, data.length⟩ := by
  have hlength := List.length_pos_of_ne_nil h
  rw [chunkLen_eq]
  omega

/-- Data written from an address on, page by page. -/
def writePages (a : Nat) (data : List Byte) : Proc Unit :=
  if data = [] then pure ()
  else do
    writeChunk data ⟨a, 0, data.length⟩
    writePages (a + chunkLen ⟨a, 0, data.length⟩) (data.drop (chunkLen ⟨a, 0, data.length⟩))
termination_by data.length
decreasing_by
  rename_i h
  have hpos := chunkLen_pos (a := a) h
  have hlength := List.length_pos_of_ne_nil h
  rw [List.length_drop]
  omega

@[simp] theorem writePages_nil (a : Nat) : writePages a [] = pure () := by
  rw [writePages, if_pos rfl]

theorem writePages_of_ne_nil (a : Nat) {data : List Byte} (h : data ≠ []) : writePages a data =
    writeChunk data ⟨a, 0, data.length⟩ >>= fun _ =>
      writePages (a + chunkLen ⟨a, 0, data.length⟩) (data.drop (chunkLen ⟨a, 0, data.length⟩)) := by
  rw [writePages, if_neg h]

theorem part_writePages (a : Nat) (data : List Byte) : Part (writePages a data) := by
  induction a, data using writePages.induct with
  | case1 a =>
    rw [writePages_nil]
    exact part_pure ()
  | case2 a data h ih =>
    rw [writePages_of_ne_nil a h]
    exact part_bind (part_writeChunk _ _) fun _ => ih

/-! ### The loop with the cursor -/

/-- A chunk depends on the data that is left only. -/
theorem writeChunk_drop (data : List Byte) (c : Cursor) :
    writeChunk data c = writeChunk (data.drop c.off) ⟨c.a, 0, c.rem⟩ := rfl

theorem run_look_cursorValue (c : Cursor) (s : State) :
    run (look State.cursorValue) { s with cursor := some c } = (.ok c, { s with cursor := some c }) := rfl

theorem run_writeLoop_of_rem_eq_zero (data : List Byte) (fuel : Nat) {c : Cursor} (h : c.rem = 0) (s : State) :
    run (writeLoop data fuel) { s with cursor := some c } = (.ok (), { s with cursor := some c }) := by
  cases fuel with
  | zero => rfl
  | succ fuel =>
    rw [writeLoop, run_bind_ok (run_look_cursorValue c s), if_pos h]
    rfl

theorem run_writeLoop_succ (data : List Byte) (fuel : Nat) {c : Cursor} (h : c.rem ≠ 0) (s : State) :
    run (writeLoop data (fuel + 1)) { s with cursor := some c } =
      run (writeChunk data c >>= fun _ => advanceCursor (chunkLen c) >>= fun _ => writeLoop data fuel)
        { s with cursor := some c } := by
  rw [writeLoop, run_bind_ok (run_look_cursorValue c s), if_neg h]

/-- The loop, with fuel for the bytes that are left, writes the data that is left. -/
theorem run_withCursor_writeLoop (data : List Byte) (fuel : Nat) (c : Cursor) (hfuel : c.rem ≤ fuel)
    (hrem : (data.drop c.off).length = c.rem) (s : State) :
    run (withCursor c (writeLoop data fuel)) s = ((run (writePages c.a (data.drop c.off)) s).1,
      { (run (writePages c.a (data.drop c.off)) s).2 with cursor := none }) := by
  obtain hzero | hpos := Nat.eq_zero_or_pos c.rem
  · rw [List.eq_nil_of_length_eq_zero (hrem.trans hzero), writePages_nil, run_pure, run_withCursor,
      run_writeLoop_of_rem_eq_zero data fuel hzero]
  · obtain ⟨fuel, rfl⟩ := Nat.exists_eq_add_of_le' (hpos.trans_le hfuel)
    have hne : data.drop c.off ≠ [] := List.ne_nil_of_length_pos (hrem ▸ hpos)
    have hk : 0 < chunkLen c := by
      have h := chunkLen_pos (a := c.a) hne
      rwa [hrem] at h
    have hcursor := (part_writeChunk data c).run_cursor s (some c)
    rw [run_withCursor, run_writeLoop_succ data fuel hpos.ne', writePages_of_ne_nil _ hne, hrem, ← writeChunk_drop]
    rcases hchunk : run (writeChunk data c) s with ⟨e | _, t⟩ <;> rw [hchunk] at hcursor
    · rw [run_bind_error hcursor, run_bind_error hchunk]
    · have hrest := run_withCursor_writeLoop data fuel ⟨c.a + chunkLen c, c.off + chunkLen c, c.rem - chunkLen c⟩
        (by simp only; omega) (by rw [← hrem, List.length_drop, List.length_drop]; simp only; omega) t
      rw [run_withCursor] at hrest
      rw [run_bind_ok hcursor, run_bind_ok hchunk, advanceCursor, run_bind_ok (run_update _ _), List.drop_drop]
      exact hrest
termination_by fuel

/-! ### WRITE after its checks -/

theorem exec_write_eq (hquiet : s.Quiet) (hs : s.Ready) (hmode : s.ModeLegal) {addr : Half} {data : List Byte}
    (hrange : addr.toNat + data.length ≤ 128) : exec (.write addr data) s =
      runHost (HostOp.status .write) (writePages addr.toNat data >>= fun _ => pure .none) s := by
  obtain ⟨-, -, -, -, -, hcursor⟩ := hquiet
  have hloop := run_withCursor_writeLoop data data.length ⟨addr.toNat, 0, data.length⟩ le_rfl rfl s
  have hnone : ({ (run (writePages addr.toNat data) s).2 with cursor := none } : State) =
      (run (writePages addr.toNat data) s).2 := by
    rw [← hcursor, ← (part_writePages addr.toNat data).cursor_eq s]
  rw [List.drop_zero, hnone] at hloop
  refine (runHost_addressedPrelude_ok _ hs hmode (run_checkRange_of_le hrange s) _).trans ?_
  rw [runHost, runHost, run_bind, run_bind, hloop]

/-! ### One page -/

theorem writePages_of_le (a : Nat) {data : List Byte} (hne : data ≠ []) (h : a % 8 + data.length ≤ 8) :
    writePages a data = writeChunk data ⟨a, 0, data.length⟩ := by
  have hlen : chunkLen ⟨a, 0, data.length⟩ = data.length := by rw [chunkLen_eq]; omega
  rw [writePages_of_ne_nil a hne, hlen, List.drop_length]
  simp only [writePages_nil]
  exact bind_pure _

/-- The address of a chunk's page. -/
theorem ofNat_pageOf {page : Half} {o : Nat} (hpage : page.toNat % 8 = 0) (ho : o < 8) :
    BitVec.ofNat 16 (pageOf (page.toNat + o)) = page := by
  have h : pageOf (page.toNat + o) = page.toNat := by
    show page.toNat + o - (page.toNat + o) % 8 = page.toNat
    omega
  rw [h, BitVec.ofNat_toNat, BitVec.setWidth_eq]

theorem writePages_wholePage {page : Half} (hpage : page.toNat % 8 = 0) (data : Bytes8) :
    writePages page.toNat data.toList = pageWrite page data.toList := by
  have hlength : data.toList.length = 8 := rfl
  have hfull : fullPage ⟨page.toNat, 0, 8⟩ = true := by
    show (page.toNat % 8 == 0 && min (8 - page.toNat % 8) 8 == 8) = true
    rw [hpage]
    rfl
  have hdata : chunkData data.toList ⟨page.toNat, 0, 8⟩ = data.toList := by
    rw [chunkData, chunkLen_eq, hpage]
    rfl
  rw [writePages_of_le _ (List.ne_nil_of_length_pos (by omega)) (by omega), hlength, writeChunk, if_pos hfull, hdata,
    ← Nat.add_zero page.toNat, ofNat_pageOf hpage (by omega)]

theorem writePages_partialPage {page : Half} (hpage : page.toNat % 8 = 0) {o : Nat} {data : List Byte} (hne : data ≠ [])
    (hlt : data.length < 8) (ho : o + data.length ≤ 8) : writePages (page.toNat + o) data =
      memoryRead page 8 >>= fun buf => pageWrite page (overlay buf o data) := by
  have hpos := List.length_pos_of_ne_nil hne
  have hoffset : (page.toNat + o) % 8 = o := by omega
  have hlen : chunkLen ⟨page.toNat + o, 0, data.length⟩ = data.length := by rw [chunkLen_eq]; omega
  have hpartial : ¬ fullPage ⟨page.toNat + o, 0, data.length⟩ = true := by
    rw [fullPage, hlen, Bool.and_eq_true, beq_iff_eq, beq_iff_eq]
    exact fun h => hlt.ne h.2
  have hdata : chunkData data ⟨page.toNat + o, 0, data.length⟩ = data := by
    rw [chunkData, hlen, List.drop_zero, List.take_length]
  rw [writePages_of_le _ hne (by omega), writeChunk, if_neg hpartial, hdata, ofNat_pageOf hpage (by omega)]
  show (memoryRead page 8 >>= fun buf => pageWrite page (overlay buf ((page.toNat + o) % 8) data)) = _
  rw [hoffset]

/-! ### Page boundaries -/

/-- The chunks of data that ends at a page boundary are the same where more data follows. -/
theorem chunkLen_append {a : Nat} {d1 : List Byte} (h : (a + d1.length) % 8 = 0) (hne : d1 ≠ []) (d2 : List Byte) :
    chunkLen ⟨a, 0, (d1 ++ d2).length⟩ = chunkLen ⟨a, 0, d1.length⟩ := by
  have hpos := List.length_pos_of_ne_nil hne
  rw [chunkLen_eq, chunkLen_eq, List.length_append]
  omega

theorem writeChunk_append {a : Nat} {d1 : List Byte} (h : (a + d1.length) % 8 = 0) (hne : d1 ≠ []) (d2 : List Byte) :
    writeChunk (d1 ++ d2) ⟨a, 0, (d1 ++ d2).length⟩ = writeChunk d1 ⟨a, 0, d1.length⟩ := by
  have hlen := chunkLen_append h hne d2
  have hle : chunkLen ⟨a, 0, d1.length⟩ ≤ d1.length := Nat.min_le_right _ _
  have hfull : fullPage ⟨a, 0, (d1 ++ d2).length⟩ = fullPage ⟨a, 0, d1.length⟩ := by rw [fullPage, fullPage, hlen]
  have hdata : chunkData (d1 ++ d2) ⟨a, 0, (d1 ++ d2).length⟩ = chunkData d1 ⟨a, 0, d1.length⟩ := by
    rw [chunkData, chunkData, hlen, List.drop_zero, List.drop_zero, List.take_append_of_le_length hle]
  rw [writeChunk, writeChunk, hfull, hdata]

theorem writePages_append {a : Nat} {d1 : List Byte} (h : (a + d1.length) % 8 = 0) (d2 : List Byte) :
    writePages a (d1 ++ d2) = writePages a d1 >>= fun _ => writePages (a + d1.length) d2 := by
  induction a, d1 using writePages.induct with
  | case1 a =>
    rw [writePages_nil]
    exact (pure_bind (m := Proc) () fun _ => writePages a d2).symm
  | case2 a d1 hne ih =>
    have hle : chunkLen ⟨a, 0, d1.length⟩ ≤ d1.length := Nat.min_le_right _ _
    have hrest : a + chunkLen ⟨a, 0, d1.length⟩ + (d1.drop (chunkLen ⟨a, 0, d1.length⟩)).length = a + d1.length := by
      rw [List.length_drop]
      omega
    rw [hrest] at ih
    rw [writePages_of_ne_nil a (List.append_ne_nil_of_left_ne_nil hne d2), writePages_of_ne_nil a hne, chunkLen_append h hne,
      List.drop_append_of_le_length hle, ih h, writeChunk_append h hne, bind_assoc]

end Sys2Proof.Machine
end

section
/-! The public reads and writes as MEM_READ and PAGE_WRITE, whatever the environment answers (45_memory_transactions.md R292 to
R298): the result of the micro-operation becomes the response. -/

namespace Sys2Proof.Machine

open Proc

variable {α : Type} {s t : State}

/-! ### A result made a response -/

/-- Every failure of a transaction has the failure status (60_exceptions.md R361). -/
abbrev FailsWithOne (status : Cause → Byte) : Prop := ∀ c ∈ [Cause.transport, .noPresence, .crc, .response], status c = 1

theorem respondFor_micro_ok (out : MicroValue → Output) (v : MicroValue) (hreplies : t.replies = s.replies) :
    respondFor out s (t.reply (.micro (.ok v))) = t.reply (hostReply 0 .ok (out v)) := by
  rw [respondFor, State.reply_replies, hreplies, List.drop_left]
  simp [State.reply, hreplies]

theorem respondFor_micro_err (out : MicroValue → Output) (c : Cause) (hreplies : t.replies = s.replies) :
    respondFor out s (t.reply (.micro (.err c))) = t.reply (hostReply 1 c .none) := by
  rw [respondFor, State.reply_replies, hreplies, List.drop_left]
  simp [State.reply, hreplies]

theorem respondFor_halted (out : MicroValue → Output) (h : Halt) (hreplies : t.replies = s.replies) :
    respondFor out s (t.halted h) = t.halted h := by
  have hnew : (t.halted h).replies.drop s.replies.length = [] := by rw [State.halted_replies, hreplies, List.drop_length]
  rw [respondFor, hnew]

/-- Early ends: a cause with status 1, or the recorded stop. -/
theorem hostEnd_error_eq_respondFor {status : Cause → Byte} (hstatus : FailsWithOne status) (out : MicroValue → Output)
    {e : Stop} (he : e.OfTransaction) (hreplies : t.replies = s.replies) :
    hostEnd status (.error e, t) = respondFor out s (microEnd (.error e, t)) := by
  obtain ⟨c, hc, rfl⟩ | ⟨h, rfl⟩ := he
  · have hone : hostEnd status (.error (.err c), t) = t.reply (hostReply 1 c .none) := by rw [← hstatus c hc]; rfl
    exact hone.trans (respondFor_micro_err out c hreplies).symm
  · exact (respondFor_halted out h hreplies).symm

/-- A host operation whose work is that of a micro-operation. -/
theorem runHost_eq_respondFor {m : Proc α} (hm : Part m) (hmode : s.ModeLegal) {status : Cause → Byte}
    (hstatus : FailsWithOne status) (out : MicroValue → Output) (f : α → MicroValue) :
    runHost status (m >>= fun v => pure (out (f v))) s =
      .next (respondFor out s (microEnd (run (m >>= fun v => pure (.ok (f v))) s))) := by
  have hreplies := (hm.framed s).replies
  have hfails := hm.fails s
  rcases hrun : run m s with ⟨e | v, t⟩ <;> rw [hrun] at hreplies hfails
  · rw [runHost, run_bind_error hrun, run_bind_error hrun, hostEnd_error_eq_respondFor hstatus out (hfails e hmode rfl) hreplies]
  · rw [runHost, run_bind_ok hrun, run_bind_ok hrun]
    exact congrArg _ (respondFor_micro_ok out (f v) hreplies).symm

/-- Settles O56: after their checks the operations are MEM_READ and a response. -/
theorem publicReadsAreMemRead : Obligations.PublicReadsAreMemRead := by
  intro s hs hmode
  refine ⟨fun addr len hrange => ⟨_, rfl, ?_, ?_⟩, ⟨_, rfl, ?_⟩⟩
  · exact (runHost_readBody _ hs hmode hrange).trans
      (runHost_eq_respondFor (part_memoryRead addr len.toNat) hmode (by decide) dataOutput .bytes)
  · exact (runHost_readBody _ hs hmode hrange).trans
      (runHost_eq_respondFor (part_memoryRead addr len.toNat) hmode (by decide) dataOutput .bytes)
  · exact (exec_readConfig_eq hs hmode).trans
      (runHost_eq_respondFor (part_memoryRead 0x0080 8) hmode (by decide) configOutput .bytes)

/-! ### Whole pages -/

theorem exec_write_wholePage_eq (hquiet : s.Quiet) (hs : s.Ready) (hmode : s.ModeLegal) {addr : Half}
    (halign : addr.toNat % 8 = 0) (hbelow : addr.toNat < 0x80) (data : Bytes8) : exec (.write addr data.toList) s =
      runHost (HostOp.status .write) (pageWrite addr data.toList >>= fun _ => pure .none) s := by
  have hrange : addr.toNat + data.toList.length ≤ 128 := by
    show addr.toNat + 8 ≤ 128
    omega
  rw [exec_write_eq hquiet hs hmode hrange, writePages_wholePage halign]

/-- Settles O58: after their checks the operations are PAGE_WRITE and a response. -/
theorem wholePageWritesArePageWrite : Obligations.WholePageWritesArePageWrite := by
  intro s data hquiet hs hmode
  refine ⟨fun addr halign hbelow => ⟨_, rfl, ?_⟩, ⟨_, rfl, ?_⟩⟩
  · exact (exec_write_wholePage_eq hquiet hs hmode halign hbelow data).trans
      (runHost_eq_respondFor (part_pageWrite addr data.toList) hmode (by decide) noOutput fun _ => .unit)
  · exact (exec_writeConfig_eq hs hmode data).trans
      (runHost_eq_respondFor (part_pageWrite 0x0080 data.toList) hmode (by decide) noOutput fun _ => .unit)

/-! ### Parts of pages -/

theorem run_bind_eq_ok {β : Type} {m : Proc α} {f : α → Proc β} {v : β} (h : run (m >>= f) s = (.ok v, t)) :
    ∃ w u, run m s = (.ok w, u) ∧ run (f w) u = (.ok v, t) := by
  rcases hm : run m s with ⟨e | w, u⟩
  · cases (run_bind_error hm).symm.trans h
  · exact ⟨w, u, rfl, (run_bind_ok hm).symm.trans h⟩

theorem length_of_run_readBytes {p : Prof} {n : Nat} {bs : List Byte} (h : run (readBytes p n) s = (.ok bs, t)) :
    bs.length = n := by
  induction n generalizing s t bs with
  | zero =>
    cases h
    rfl
  | succ n ih =>
    obtain ⟨x, u, -, h⟩ := run_bind_eq_ok h
    obtain ⟨xs, v, hxs, h⟩ := run_bind_eq_ok h
    cases h
    rw [List.length_cons, ih hxs]

theorem length_of_run_memoryRead {addr : Half} {n : Nat} {bs : List Byte} (h : run (memoryRead addr n) s = (.ok bs, t)) :
    bs.length = n := by
  obtain ⟨p, u, -, h⟩ := run_bind_eq_ok h
  obtain ⟨_, v, -, h⟩ := run_bind_eq_ok h
  exact length_of_run_readBytes h

theorem toNat_add_ofNat {addr : Half} {n : Nat} (h : addr.toNat + n < 65536) :
    (addr + BitVec.ofNat 16 n).toNat = addr.toNat + n := by
  rw [BitVec.toNat_add, BitVec.toNat_ofNat, Nat.mod_eq_of_lt (a := n) (by omega), Nat.mod_eq_of_lt h]

theorem toList_ofList {l : List Byte} (h : l.length = 8) : (Bytes8.ofList l).toList = l := by
  match l, h with
  | [_, _, _, _, _, _, _, _], _ => rfl

/-- Of two bytes at one place the new one, where there is one (R296). -/
theorem getD_overlay {buf data : List Byte} {o : Nat} (h : o + data.length ≤ buf.length) (j : Nat) :
    (overlay buf o data).getD j 0 = if o ≤ j ∧ j < o + data.length then data.getD (j - o) 0 else buf.getD j 0 := by
  have hfirst : (buf.take o).length = o := List.length_take_of_le (by omega)
  have hsecond : (buf.take o ++ data).length = o + data.length := by rw [List.length_append, hfirst]
  obtain hj | hj := Nat.lt_or_ge j o
  · rw [if_neg (by omega), overlay, List.append_assoc, List.getD_append _ _ _ _ (by omega), List.getD_eq_getElem?_getD,
      List.getElem?_take_of_lt hj, List.getD_eq_getElem?_getD]
  · obtain hj' | hj' := Nat.lt_or_ge j (o + data.length)
    · rw [if_pos ⟨hj, hj'⟩, overlay, List.getD_append _ _ _ _ (by omega), List.getD_append_right _ _ _ _ (by omega), hfirst]
    · rw [if_neg (by omega), overlay, List.getD_append_right _ _ _ _ (by omega), hsecond, List.getD_eq_getElem?_getD,
        List.getElem?_drop, Nat.add_sub_cancel' hj', List.getD_eq_getElem?_getD]

theorem length_overlay {buf data : List Byte} {o : Nat} (h : o + data.length ≤ buf.length) :
    (overlay buf o data).length = buf.length := by
  rw [overlay, List.length_append, List.length_append, List.length_take, List.length_drop]
  omega

theorem Frame.ready (h : Frame s t) (hs : s.Ready) : t.Ready := ⟨h.handle.trans hs.1, h.inited.trans hs.2⟩

theorem reply_replies_restored (r : Reply) (h : t.replies = s.replies) : { t.reply r with replies := s.replies } = t := by
  rw [← h]
  rfl

theorem respondFor_congr (out : MicroValue → Output) (h : t.replies = s.replies) (u : State) :
    respondFor out t u = respondFor out s u := by
  rw [respondFor, respondFor, h]

theorem microEnd_error_replies_ne {e : Stop} (h : t.replies = s.replies) (v : MicroValue) :
    (microEnd (.error e, t)).replies ≠ s.replies ++ [.micro (.ok v)] := by
  rw [← h]
  cases e with
  | err c => exact fun hreplies => nomatch List.append_cancel_left hreplies
  | halt stop => exact fun hreplies => nomatch List.self_eq_append_right.1 hreplies

/-- Settles O59: the one chunk is a MEM_READ and, where that succeeds, a PAGE_WRITE of what it read under the new bytes. -/
theorem partialPageWriteIsReadModifyWrite : Obligations.PartialPageWriteIsReadModifyWrite := by
  intro s page o data hquiet hs hmode hpage hbelow hpos hlt ho
  have haddr : (page + BitVec.ofNat 16 o).toNat = page.toNat + o := toNat_add_ofNat (by omega)
  have hwrite : exec (.write (page + BitVec.ofNat 16 o) data) s = runHost (HostOp.status .write)
      ((memoryRead page 8 >>= fun buf => pageWrite page (overlay buf o data)) >>= fun _ => pure .none) s := by
    rw [exec_write_eq hquiet hs hmode (by omega), haddr,
      writePages_partialPage hpage (List.ne_nil_of_length_pos hpos) hlt ho]
  have hpart := part_memoryRead page 8
  have hframe := hpart.framed s
  have hfails := hpart.fails s
  rcases hrun : run (memoryRead page 8) s with ⟨e | buf, t⟩ <;> rw [hrun] at hframe hfails
  · have hread : exec (.memRead page 8) s = .next (microEnd (.error e, t)) :=
      congrArg (fun r => Host.Outcome.next (microEnd r)) (run_bind_error hrun)
    refine ⟨_, hread, .inr ⟨microEnd_error_replies_ne hframe.replies, ?_⟩⟩
    rw [hwrite, bind_assoc, runHost, run_bind_error hrun,
      hostEnd_error_eq_respondFor (by decide) noOutput (hfails e hmode rfl) hframe.replies]
  · have hread : exec (.memRead page 8) s = .next (t.reply (.micro (.ok (.bytes buf)))) :=
      runMicro_bind_pure_of_run_ok (fun bs => .ok (.bytes bs)) hrun
    have hlength := length_of_run_memoryRead hrun
    have hnew : (overlay buf o data).length = 8 := by rw [length_overlay (by omega), hlength]
    refine ⟨_, hread, .inl ⟨Bytes8.ofList buf, ?_, Bytes8.ofList (overlay buf o data), _, fun j hj => ?_, rfl, ?_⟩⟩
    · rw [toList_ofList hlength, State.reply_replies, hframe.replies]
    · rw [byteAt_ofList hj, byteAt_ofList hj, getD_overlay (by omega)]
    · rw [reply_replies_restored _ hframe.replies, toList_ofList hnew, hwrite, bind_assoc, runHost, run_bind_ok hrun,
        ← respondFor_congr noOutput hframe.replies]
      exact runHost_eq_respondFor (part_pageWrite page (overlay buf o data)) (hframe.modeLegal hmode) (by decide) noOutput
        fun _ => .unit

/-! ### Splitting -/

theorem exec_write_nil (hquiet : s.Quiet) (hs : s.Ready) (hmode : s.ModeLegal) {addr : Half} (h : addr.toNat ≤ 128) :
    exec (.write addr []) s = .next (s.reply (hostReply 0 .ok .none)) := by
  rw [exec_write_eq (data := []) hquiet hs hmode h, writePages_nil]
  rfl

theorem hostEnd_error_replies_ne {status : Cause → Byte} {e : Stop} (he : e.OfTransaction) (h : t.replies = s.replies) :
    (hostEnd status (.error e, t)).replies ≠ s.replies ++ [hostReply 0 .ok .none] := by
  rw [← h]
  obtain ⟨c, hc, rfl⟩ | ⟨stop, rfl⟩ := he
  · intro hreplies
    obtain ⟨-, rfl, -⟩ := Response.mk.inj (Reply.host.inj (List.singleton_inj.1 (List.append_cancel_left hreplies)))
    exact absurd hc (by decide)
  · exact fun hreplies => nomatch List.self_eq_append_right.1 hreplies

/-- Settles O60: the pages of the first part, then, where they are written, those of the second. -/
theorem writeSplitsAtPageBoundaries : Obligations.WriteSplitsAtPageBoundaries := by
  intro s addr hquiet hs hmode
  refine ⟨exec_write_nil hquiet hs hmode, fun d1 d2 hboundary hrange => ?_⟩
  have hboth := exec_write_eq (addr := addr) (data := d1 ++ d2) hquiet hs hmode (by rw [List.length_append]; omega)
  have hfirst := exec_write_eq (addr := addr) (data := d1) hquiet hs hmode (by omega)
  rw [writePages_append hboundary, bind_assoc] at hboth
  have hpart := part_writePages addr.toNat d1
  have hframe := hpart.framed s
  have hfails := hpart.fails s
  rcases hrun : run (writePages addr.toNat d1) s with ⟨e | _, t⟩ <;> rw [hrun] at hframe hfails
  · rw [runHost, run_bind_error hrun] at hboth hfirst
    exact ⟨_, hfirst, fun hok => absurd hok (hostEnd_error_replies_ne (hfails e hmode rfl) hframe.replies), fun _ => hboth⟩
  · rw [runHost_bind_pure_of_run_ok _ _ hrun] at hfirst
    rw [runHost, run_bind_ok hrun] at hboth
    have hquiet' : t.Quiet := (exec_keeps_quiet hquiet hfirst : (t.reply (hostReply 0 .ok .none)).Quiet)
    have haddr : (addr + BitVec.ofNat 16 d1.length).toNat = addr.toNat + d1.length := toNat_add_ofNat (by omega)
    have hsecond := exec_write_eq (data := d2) hquiet' (hframe.ready hs) (hframe.modeLegal hmode)
      (addr := addr + BitVec.ofNat 16 d1.length) (by omega)
    rw [haddr] at hsecond
    refine ⟨_, hfirst, fun _ => ⟨_, ?_, hboth⟩, fun hne => absurd ?_ hne⟩
    · rw [reply_replies_restored _ hframe.replies, hsecond]
      rfl
    · rw [State.reply_replies, hframe.replies]

/-! ### On a frame without a bus failure -/

/-- PAGE_WRITE, WRITE_CONFIG and a WRITE of one page, by the result of the page write. -/
theorem exec_pageWrites_of_run_eq {addr : Half} {data : Bytes8} {r : Except Stop Unit} (hquiet : s.Quiet)
    (hmode : s.ModeLegal) (halign : addr.toNat % 8 = 0) (h : run (pageWrite addr data.toList) s = (r, t)) :
    exec (.pageWrite addr data) s = .next (microEnd (r.map fun _ => .ok .unit, t)) ∧
    (s.Ready → addr = 0x0080 →
      exec (.writeConfig data) s = .next (hostEnd (HostOp.status .writeConfig) (r.map fun _ => .none, t))) ∧
    (s.Ready → addr.toNat < 0x80 →
      exec (.write addr data.toList) s = .next (hostEnd (HostOp.status .write) (r.map fun _ => .none, t))) := by
  have hthen : ∀ {β : Type} (v : β), run (pageWrite addr data.toList >>= fun _ => pure v) s = (r.map fun _ => v, t) :=
    fun v => by
      rw [run_bind, h]
      cases r <;> rfl
  refine ⟨?_, ?_, fun hs hbelow => ?_⟩
  · exact congrArg (fun r => Host.Outcome.next (microEnd r)) (hthen _)
  · rintro hs rfl
    rw [exec_writeConfig_eq hs hmode, runHost, hthen]
  · rw [exec_write_wholePage_eq hquiet hs hmode halign hbelow, runHost, hthen]

/-- Settles O57: the bytes read in the first session, then the status byte of the second, decide how the page write ends. -/
theorem pageWriteVerifiesThenCopies : Obligations.PageWriteVerifiesThenCopies := by
  intro s addr data k1 k2 lo hi as rest hquiet ha halign henv hfits first hfirst
  have ⟨_, _, _, hacc, hpolls, _⟩ := hquiet
  have ⟨hmode, _, _⟩ := ha
  refine ⟨fun hcrc => ?_, ?_⟩
  · have hrun := (endsAs_pageWrite_of_crc_ne hacc hpolls ha addr data lo hi hcrc).run_eq hquiet henv hfits
      (latched_append_of_latched fun line => latched_bytesReadTrace _ 2 line)
    rw [← hfirst] at hrun
    exact exec_pageWrites_of_run_eq hquiet hmode halign hrun
  · rintro hcrc k3 k4 x as2 rest2 hk rfl hfits2 t ht
    have hrun := (endsAs_pageWrite_of_crc_eq hacc hpolls ha addr data lo hi x hk hcrc).run_eq hquiet
      (by rw [henv, List.append_assoc]) ((fits_append ..).2 ⟨as, as2, rfl, hfits, hfits2⟩)
      (latched_append_of_latched fun _ => rfl)
    rw [← hfirst, ← ht] at hrun
    have h := exec_pageWrites_of_run_eq hquiet hmode halign hrun
    split_ifs at h ⊢ <;> exact h

end Sys2Proof.Machine
end

section
/-! Handle control (46_handle_control.md R331 to R336): the two checks that come first (60_exceptions.md R362, R363), the calls
`BusInit` and `BusDeinit`, and the reads of MODE and ROM, with the fault of R376 where they are unwritten. -/

namespace Sys2Proof.Machine

variable {s t : State}

/-! ### How an operation ends -/

/-- A host operation whose body stops for good records the stop, and gives no response. -/
theorem runHost_of_run_halt {status : Cause → Byte} {body : Proc Output} {h : Halt}
    (hrun : Proc.run body s = (.error (.halt h), t)) : runHost status body s = .next { t with halt := some h } := by
  rw [runHost, hrun]
  rfl

/-- An operation that begins with the checks of the handle and of INITED ends at the first of them that fails. -/
theorem runHost_checkHandleInit_rejects (op : HostOp) (rest : Unit → Proc Output) (s : State) :
    (s.handle = .null →
      runHost op.status (checkHandleInit >>= rest) s = .next (s.reply (hostReply 2 .nullHandle .none))) ∧
    (s.handle = .core → s.inited = false →
      runHost op.status (checkHandleInit >>= rest) s = .next (s.reply (hostReply 3 .notInit .none))) := by
  refine ⟨fun hnull => ?_, fun hcore hinited => ?_⟩
  · have hcheck : Proc.run checkHandleInit s = (.error (.err .nullHandle), s) := by rw [run_checkHandleInit, if_pos hnull]
    exact runHost_of_run_error (status := op.status) (Proc.run_bind_error hcheck)
  · have hcheck : Proc.run checkHandleInit s = (.error (.err .notInit), s) := by simp [run_checkHandleInit, hcore, hinited]
    exact runHost_of_run_error (status := op.status) (Proc.run_bind_error hcheck)

/-! ### INIT and DEINIT -/

theorem Caps.connected_iff (c : Caps) : c.connected = true ↔ c = ⟨true, true, true, true, true, true, true, true, true⟩ := by
  cases c
  simp [Caps.connected, and_assoc]

theorem run_checkHandle (s : State) :
    Proc.run checkHandle s = if s.handle = .core then (.ok (), s) else (.error (.err .nullHandle), s) := by
  rw [checkHandle, Proc.run_bind, Proc.run_look]
  simp only [run_require, beq_iff_eq]

theorem run_checkHandle_of_core (hcore : s.handle = .core) : Proc.run checkHandle s = (.ok (), s) := by
  rw [run_checkHandle, if_pos hcore]

/-- With the core's handle INIT tests the capabilities. -/
theorem run_initBody_of_core (hcore : s.handle = .core) : Proc.run initBody s =
    if s.caps.connected then Proc.run (busInit >>= fun _ => writeInited true >>= fun _ => pure .none) s
    else (.error (.err .missingCap), s) := by
  rw [initBody, Proc.run_bind_ok (run_checkHandle_of_core hcore), Proc.run_bind_ok (Proc.run_look State.caps s),
    Proc.run_bind, run_require]
  cases s.caps.connected <;> rfl

/-- Settles O21: the handle, then the capabilities, then the answer to `BusInit` decide; no step reads INITED. -/
theorem initChecksThenInitializesTheBus : Obligations.InitChecksThenInitializesTheBus := by
  intro s
  refine ⟨fun hnull => ?_, fun hcore hmissing => ?_, fun hcore hcaps => ?_⟩
  · have hcheck : Proc.run checkHandle s = (.error (.err .nullHandle), s) := by simp [run_checkHandle, hnull]
    exact runHost_of_run_error (status := HostOp.status .init) (Proc.run_bind_error hcheck)
  · have hbody := run_initBody_of_core hcore
    rw [if_neg (mt s.caps.connected_iff.1 hmissing)] at hbody
    exact runHost_of_run_error (status := HostOp.status .init) hbody
  · have hbody := run_initBody_of_core hcore
    rw [if_pos (s.caps.connected_iff.2 hcaps)] at hbody
    refine ⟨fun hfail => ?_, fun hok => ?_⟩
    · rw [Proc.run_bind_error ((run_busInit s).trans (if_neg hfail))] at hbody
      exact runHost_of_error (status := HostOp.status .init) hbody
    · rw [Proc.run_bind_ok ((run_busInit s).trans (if_pos hok))] at hbody
      exact runHost_of_run_ok (status := HostOp.status .init) hbody

/-- Settles O22: past the two checks the answer to `BusDeinit` decides. -/
theorem deinitClearsInitedOnSuccess : Obligations.DeinitClearsInitedOnSuccess := by
  intro s
  obtain ⟨hnull, hnotInit⟩ := runHost_checkHandleInit_rejects .deinit
    (fun _ => busDeinit >>= fun _ => writeInited false >>= fun _ => pure .none) s
  refine ⟨hnull, hnotInit, fun hs => ?_⟩
  have hbody : Proc.run deinitBody s = Proc.run (busDeinit >>= fun _ => writeInited false >>= fun _ => pure .none) s := by
    rw [deinitBody, Proc.run_bind_ok (run_checkHandleInit_of_ready hs)]
  refine ⟨fun hfail => ?_, fun hok => ?_⟩
  · rw [Proc.run_bind_error ((run_busDeinit s).trans (if_neg hfail))] at hbody
    exact runHost_of_error (status := HostOp.status .deinit) hbody
  · rw [Proc.run_bind_ok ((run_busDeinit s).trans (if_pos hok))] at hbody
    exact runHost_of_run_ok (status := HostOp.status .deinit) hbody

/-! ### MODE and ROM -/

theorem exec_getMode_of_not_readable (hs : s.Ready) (hmode : s.modeReadable = false) :
    exec .getMode s = .next { s with halt := some (.unwrittenRead .mode) } := by
  have hread : Proc.run readMode s = (.error (.halt (.unwrittenRead .mode)), s) := by simp [run_readMode, hmode]
  refine runHost_of_run_halt (body := getModeBody) ?_
  rw [getModeBody, Proc.run_bind_ok (run_checkHandleInit_of_ready hs), Proc.run_bind_error hread]

theorem exec_getRom_of_not_readable (hs : s.Ready) (hrom : s.romReadable = false) :
    exec .getRom s = .next { s with halt := some (.unwrittenRead .rom) } := by
  have hread : Proc.run readRom s = (.error (.halt (.unwrittenRead .rom)), s) := by simp [run_readRom, hrom]
  refine runHost_of_run_halt (body := getRomBody) ?_
  rw [getRomBody, Proc.run_bind_ok (run_checkHandleInit_of_ready hs), Proc.run_bind_error hread]

/-- Settles O23: past the two checks SET writes its register, and GET reads it where it can be read. -/
theorem setStoresTheOperandAndGetReadsTheRegister : Obligations.SetStoresTheOperandAndGetReadsTheRegister := by
  refine fun s => ⟨fun hs => ⟨exec_setMode_of_ready hs, exec_setRom_of_ready hs, fun hmode => ?_, fun hmark hfaults => ?_,
    fun hrom => ?_, fun hmark hfaults => ?_⟩, fun i hi => ?_⟩
  · exact exec_getMode_of_readable hs (by simpa [State.modeReadable] using hmode)
  · exact exec_getMode_of_not_readable hs (by simp [State.modeReadable, hmark, hfaults])
  · exact exec_getRom_of_readable hs (by simpa [State.romReadable] using hrom)
  · exact exec_getRom_of_not_readable hs (by simp [State.romReadable, hmark, hfaults])
  · obtain rfl | rfl | ⟨m, rfl⟩ | ⟨r, rfl⟩ := hi
    · exact runHost_checkHandleInit_rejects .getMode _ s
    · exact runHost_checkHandleInit_rejects .getRom _ s
    · exact runHost_checkHandleInit_rejects .setMode _ s
    · exact runHost_checkHandleInit_rejects .setRom _ s

end Sys2Proof.Machine
end

section
/-! A core that runs no request (60_exceptions.md R376, R377, 70_reset_and_hazards.md R400), and the checks of the handle and of
INITED that come first in every host operation but INIT (R362, R363). -/

namespace Sys2Proof.Machine

theorem step_of_halt {s : State} {h : Halt} (hhalt : s.halt = some h) : step s = stopped h := by
  simp only [step, hhalt]

theorem step_of_inbox_nil {s : State} (hhalt : s.halt = none) (hinbox : s.inbox = []) : step s = .next s := by
  simp only [step, hhalt, hinbox]

/-- Settles O6: a recorded stop decides the step, and else an empty queue does. -/
theorem stepWithoutARunnableRequest : Obligations.StepWithoutARunnableRequest :=
  fun _ => ⟨fun _ => step_of_halt, step_of_halt, step_of_inbox_nil⟩

/-! ### The checks of a host operation -/

theorem addressedPrelude_bind {β : Type} (check : Proc Unit) (rest : Unit → Proc β) : addressedPrelude check >>= rest =
    checkHandleInit >>= fun _ => check >>= fun _ => checkMode >>= rest := by
  simp only [addressedPrelude, bind_assoc]

/-- The instruction is a host operation that begins with the checks of the handle and of INITED. -/
def BeginsWithChecks (i : Instr) : Prop :=
  ∃ (op : HostOp) (rest : Unit → Proc Output), ∀ s, exec i s = runHost op.status (checkHandleInit >>= rest) s

/-- An addressed operation tests its arguments and MODE after the two checks (45_memory_transactions.md R273). -/
theorem beginsWithChecks_of_addressedPrelude {i : Instr} (op : HostOp) {check : Proc Unit} {rest : Unit → Proc Output}
    (h : ∀ s, exec i s = runHost op.status (addressedPrelude check >>= rest) s) : BeginsWithChecks i :=
  ⟨op, _, fun s => by rw [h, addressedPrelude_bind]⟩

theorem beginsWithChecks_of_host {i : Instr} (hhost : i.level = .host) (hinit : i ≠ .init) : BeginsWithChecks i := by
  cases i with
  | init => exact absurd rfl hinit
  | deinit => exact ⟨.deinit, _, fun _ => rfl⟩
  | setMode m => exact ⟨.setMode, _, fun _ => rfl⟩
  | getMode => exact ⟨.getMode, _, fun _ => rfl⟩
  | setRom r => exact ⟨.setRom, _, fun _ => rfl⟩
  | getRom => exact ⟨.getRom, _, fun _ => rfl⟩
  | romMatch => exact ⟨.romMatch, _, fun _ => rfl⟩
  | searchRom n => exact ⟨.searchRom, _, fun _ => rfl⟩
  | read addr len => exact beginsWithChecks_of_addressedPrelude .read fun _ => rfl
  | readMemory addr len => exact beginsWithChecks_of_addressedPrelude .readMemory fun _ => rfl
  | write addr data => exact beginsWithChecks_of_addressedPrelude .write fun _ => rfl
  | readConfig => exact beginsWithChecks_of_addressedPrelude .readConfig fun _ => rfl
  | writeConfig block => exact beginsWithChecks_of_addressedPrelude .writeConfig fun _ => rfl
  | readScratchpad => exact beginsWithChecks_of_addressedPrelude .readScratchpad fun _ => rfl
  | writeScratchpad addr data => exact beginsWithChecks_of_addressedPrelude .writeScratchpad fun _ => rfl
  | copyScratchpad addr => exact beginsWithChecks_of_addressedPrelude .copyScratchpad fun _ => rfl
  | _ => cases hhost

/-- Settles O15: the two checks come first, in INIT the check of the handle alone. -/
theorem nullHandleThenUninitialized : Obligations.NullHandleThenUninitialized := by
  intro i s hhost
  by_cases hinit : i = .init
  · subst hinit
    obtain ⟨hnull, -⟩ := initChecksThenInitializesTheBus s
    exact ⟨hnull, fun hne => absurd rfl hne⟩
  · obtain ⟨op, rest, hexec⟩ := beginsWithChecks_of_host hhost hinit
    obtain ⟨hnull, hnotInit⟩ := runHost_checkHandleInit_rejects op rest s
    rw [hexec]
    exact ⟨hnull, fun _ => hnotInit⟩

end Sys2Proof.Machine
end

section
/-! The reads of an unwritten register on a core on which they fault (60_exceptions.md R376): of MODE before any bus activity, of
ROM after the reset and the command byte of a match (43_rom_addressing.md R212, R215, R216, R220). -/

namespace Sys2Proof.Machine

variable {s t : State}

theorem runMicro_bind_of_run_halt {α : Type} {m : Proc α} {f : α → Proc MicroResult} {h : Halt}
    (hrun : Proc.run m s = (.error (.halt h), t)) : runMicro (m >>= f) s = .next { t with halt := some h } := by
  rw [runMicro, Proc.run_bind_error hrun]
  rfl

/-! ### MODE -/

theorem run_readMode_of_not_readable (hmode : s.modeReadable = false) :
    Proc.run readMode s = (.error (.halt (.unwrittenRead .mode)), s) := by
  rw [run_readMode, if_neg (by simp [hmode])]

theorem runHost_addressedPrelude_of_mode_not_readable (status : Cause → Byte) {check : Proc Unit} {rest : Unit → Proc Output}
    (hs : s.Ready) (hmode : s.modeReadable = false) (hcheck : Proc.run check s = (.ok (), s)) :
    runHost status (addressedPrelude check >>= rest) s = .next { s with halt := some (.unwrittenRead .mode) } := by
  have hstop : Proc.run (addressedPrelude check) s = (.error (.halt (.unwrittenRead .mode)), s) := by
    rw [run_addressedPrelude_of_check_ok hs hcheck, run_checkMode, if_pos hmode]
  exact runHost_of_run_halt (Proc.run_bind_error hstop)

theorem exec_address_of_mode_not_readable (hmode : s.modeReadable = false) :
    exec .address s = .next { s with halt := some (.unwrittenRead .mode) } :=
  runMicro_bind_of_run_halt (m := addressDevices) (Proc.run_bind_error (run_readMode_of_not_readable hmode))

/-- Settles O18: the argument check passes, and the read of MODE that follows it is the fault. -/
theorem unwrittenModeIsAFault : Obligations.UnwrittenModeIsAFault := by
  intro s hs hfaults hmark
  have hmode : s.modeReadable = false := by simp [State.modeReadable, hmark, hfaults]
  have hno : Proc.run noArgument s = (.ok (), s) := Proc.run_pure () s
  refine ⟨exec_getMode_of_not_readable hs hmode, fun addr len h => ⟨?_, ?_⟩, fun addr data h => ?_, ?_, fun block => ?_, ?_,
    fun addr data halign hbelow => ⟨?_, ?_⟩, exec_address_of_mode_not_readable hmode⟩
  · exact runHost_addressedPrelude_of_mode_not_readable (HostOp.status .read) hs hmode (run_checkRange_of_le h s)
  · exact runHost_addressedPrelude_of_mode_not_readable (HostOp.status .readMemory) hs hmode (run_checkRange_of_le h s)
  · exact runHost_addressedPrelude_of_mode_not_readable (HostOp.status .write) hs hmode (run_checkRange_of_le h s)
  · exact runHost_addressedPrelude_of_mode_not_readable (HostOp.status .readConfig) hs hmode hno
  · exact runHost_addressedPrelude_of_mode_not_readable (HostOp.status .writeConfig) hs hmode hno
  · exact runHost_addressedPrelude_of_mode_not_readable (HostOp.status .readScratchpad) hs hmode hno
  · exact runHost_addressedPrelude_of_mode_not_readable (HostOp.status .writeScratchpad) hs hmode
      (run_checkPage_of_page_below halign hbelow s)
  · exact runHost_addressedPrelude_of_mode_not_readable (HostOp.status .copyScratchpad) hs hmode
      (run_checkPage_of_page_below halign hbelow s)

/-! ### ROM -/

theorem run_sendRom_of_not_readable (q : Prof) (hrom : s.romReadable = false) :
    Proc.run (sendRom q) s = (.error (.halt (.unwrittenRead .rom)), s) :=
  Proc.run_bind_error ((run_readRom s).trans (if_neg (by simp [hrom])))

/-- The reset and the command byte are sent, then the read of ROM is the fault, whatever follows it. -/
theorem run_resetCommandRom_of_rom_not_readable {α : Type} (q : Prof) (x : Byte) (f : Unit → Proc α) {k1 k2 : Nat}
    {as rest : List Answer} (hpolls : s.polls = none) (hrom : s.romReadable = false) (hk : PollsWithin .std k1 k2)
    (henv : s.env = as ++ rest) (hfits : fits (resetPresent k1 k2 ++ bytesWritten 1) as = true) :
    Proc.run (busReset .std >>= fun _ => writeByte .std x >>= fun _ => sendRom q >>= f) s =
      (.error (.halt (.unwrittenRead .rom)), s.ran (resetTrace .std (k1 + k2) ++ byteWriteTrace .std x) rest) := by
  have hcommand := run_resetCommand_ok .std .std x hpolls hk henv hfits
  rw [← bind_assoc, Proc.run_bind_ok hcommand]
  exact Proc.run_bind_error (run_sendRom_of_not_readable q hrom)

theorem run_addressDevices_of_modeWritten (hmark : s.modeWritten = true) :
    Proc.run addressDevices s = Proc.run (addressIn s.mode) s := by
  have hmode : s.modeReadable = true := by simp [State.modeReadable, hmark]
  rw [addressDevices_eq, Proc.run_bind_ok ((run_readMode s).trans (if_pos hmode))]

/-- Settles O19: the reset and the command byte succeed, and the read of ROM that follows them is the fault. -/
theorem unwrittenRomIsAFaultAfterTheCommand : Obligations.UnwrittenRomIsAFaultAfterTheCommand := by
  intro s k1 k2 as rest hquiet hfaults hmark hk henv hfits
  obtain ⟨-, -, -, -, hpolls, -⟩ := hquiet
  have hrom : s.romReadable = false := by simp [State.romReadable, hmark, hfaults]
  refine ⟨fun hwritten hmode => ?_, fun hwritten hmode => ?_, fun hs => ?_⟩
  · refine runMicro_bind_of_run_halt (m := addressDevices) ?_
    rw [run_addressDevices_of_modeWritten hwritten, hmode]
    exact run_resetCommandRom_of_rom_not_readable .std cfg.cmdMatchRom _ hpolls hrom hk henv hfits
  · refine runMicro_bind_of_run_halt (m := addressDevices) ?_
    rw [run_addressDevices_of_modeWritten hwritten, hmode]
    exact run_resetCommandRom_of_rom_not_readable .od cfg.cmdOdMatchRom _ hpolls hrom hk henv hfits
  · refine runHost_of_run_halt (status := HostOp.status .romMatch) (body := romMatchBody) ?_
    rw [romMatchBody, Proc.run_bind_ok (run_checkHandleInit_of_ready hs)]
    exact run_resetCommandRom_of_rom_not_readable .od cfg.cmdOdMatchRom _ hpolls hrom hk henv hfits

end Sys2Proof.Machine
end

section
/-! How many events a sequence emits at most, whatever the environment answers (42_reset_presence.md R197, 44_rom_search.md R253,
70_reset_and_hazards.md R426). What a transaction sends depends on the data it holds, so the bound of a sequence that leaves the
scratchpad transaction as it is says that too. -/

namespace Sys2Proof.Machine

open Proc

variable {α β : Type} {k : Bool} {a b n : Nat}

/-! ### Sequencing -/

/-- Between the two states at most `n` events were emitted; where asked, the scratchpad transaction is unchanged. -/
structure Emitted (keepsTx : Bool) (n : Nat) (s t : State) : Prop where
  length : t.trace.length ≤ s.trace.length + n
  tx : keepsTx = true → t.tx = s.tx

theorem Emitted.refl (s : State) : Emitted k n s s := ⟨Nat.le_add_right _ _, fun _ => rfl⟩

theorem Emitted.trans {s t u : State} (h : Emitted k a s t) (h' : Emitted k b t u) : Emitted k (a + b) s u where
  length := by
    have hst := h.length
    have htu := h'.length
    omega
  tx hk := (h'.tx hk).trans (h.tx hk)

theorem Emitted.mono {s t : State} (h : Emitted k a s t) (hab : a ≤ b) : Emitted k b s t :=
  ⟨h.length.trans (Nat.add_le_add_left hab _), h.tx⟩

/-- Every exit of a sequence has emitted at most `n` events and, where asked, left the scratchpad transaction as it was. -/
def Proc.Emits (keepsTx : Bool) (n : Nat) (m : Proc α) : Prop := ∀ s, Emitted keepsTx n s (run m s).2

theorem Proc.Emits.mono {m : Proc α} (h : Emits k a m) (hab : a ≤ b) : Emits k b m := fun s => (h s).mono hab

/-- What follows a sequence may rest on the value it ended with and the state it left. -/
theorem Proc.emitted_bind {m : Proc α} {f : α → Proc β} {s : State} (hm : Emitted k a s (run m s).2)
    (hf : ∀ v t, run m s = (.ok v, t) → Emitted k b t (run (f v) t).2) : Emitted k (a + b) s (run (m >>= f) s).2 := by
  rcases hr : run m s with ⟨e | v, t⟩ <;> rw [hr] at hm
  · rw [run_bind_error hr]
    exact hm.mono (Nat.le_add_right _ _)
  · rw [run_bind_ok hr]
    exact hm.trans (hf v t hr)

theorem Proc.emits_bind {m : Proc α} {f : α → Proc β} (hm : Emits k a m) (hf : ∀ v, Emits k b (f v)) :
    Emits k (a + b) (m >>= f) := fun s => emitted_bind (hm s) fun v t _ => hf v t

/-- A sequence without events before another. -/
theorem Proc.emits_silent_bind {m : Proc α} {f : α → Proc β} (hm : Emits k 0 m) (hf : ∀ v, Emits k n (f v)) :
    Emits k n (m >>= f) := (emits_bind hm hf).mono (Nat.zero_add n).le

/-- A sequence without events after another. -/
theorem Proc.emits_bind_silent {m : Proc α} {f : α → Proc β} (hm : Emits k n m) (hf : ∀ v, Emits k 0 (f v)) :
    Emits k n (m >>= f) := emits_bind hm hf

theorem Proc.emits_pure (v : α) : Emits k n (pure v : Proc α) := fun s => .refl s

theorem Proc.emits_look (f : State → α) : Emits k n (look f) := fun s => .refl s

theorem Proc.emits_fail (c : Cause) : Emits k n (fail c : Proc α) := fun s => .refl s

theorem emits_require (ok : Bool) (c : Cause) : Emits k n (require ok c) := by
  cases ok
  · exact emits_fail c
  · exact emits_pure ()

/-- What follows a check runs only where the check passes. -/
theorem emits_require_bind {ok : Bool} {c : Cause} {f : Unit → Proc α} (h : ok = true → Emits k n (f ())) :
    Emits k n (require ok c >>= f) := by
  cases ok
  · exact fun s => .refl s
  · exact h rfl

/-- A change of the state other than its trace and the scratchpad transaction. -/
theorem Proc.emits_update {f : State → State} (htrace : ∀ s, (f s).trace = s.trace) (htx : ∀ s, (f s).tx = s.tx) :
    Emits k n (update f) := fun s => ⟨by rw [run_update, htrace]; exact Nat.le_add_right _ _, fun _ => htx s⟩

theorem emits_updateTx (f : ScratchTx → ScratchTx) : Emits false n (updateTx f) := fun _ => ⟨Nat.le_add_right _ _, nofun⟩

theorem emits_updateSearch (f : Search → Search) : Emits k n (updateSearch f) := emits_update (fun _ => rfl) fun _ => rfl

theorem emits_withTx (ta : Half) (data : List Byte) {m : Proc α} (hm : Emits false n m) : Emits false n (withTx ta data m) :=
  fun s => ⟨(hm { s with tx := some ⟨ta, data, cfg.crcInit, []⟩ }).length, nofun⟩

theorem emits_withSearch {m : Proc α} (hm : Emits k n m) : Emits k n (withSearch m) := fun s =>
  ⟨(hm { s with search := some Search.start }).length, (hm { s with search := some Search.start }).tx⟩

/-! ### Port calls, registers and the checks -/

theorem emits_delayMs (m : Nat) : Emits k 1 (delayMs m) :=
  fun s => ⟨by rw [run_delayMs, State.emit_trace, List.length_append]; rfl, fun _ => rfl⟩

theorem emitted_called (s : State) (e : PortEvent) : Emitted k 1 s (s.called e) :=
  ⟨by rw [State.called_trace, List.length_append]; rfl, fun _ => rfl⟩

theorem emits_busInit : Emits k 1 busInit := by
  intro s
  rw [run_busInit]
  split <;> exact emitted_called s _

theorem emits_busDeinit : Emits k 1 busDeinit := by
  intro s
  rw [run_busDeinit]
  split <;> exact emitted_called s _

theorem emits_readMode : Emits k n readMode := by
  intro s
  rw [run_readMode]
  split <;> exact .refl s

theorem emits_readRom : Emits k n readRom := by
  intro s
  rw [run_readRom]
  split <;> exact .refl s

theorem emits_checkHandle : Emits k n checkHandle := emits_silent_bind (emits_look _) fun _ => emits_require _ _

theorem emits_checkHandleInit : Emits k n checkHandleInit :=
  emits_silent_bind emits_checkHandle fun _ => emits_silent_bind (emits_look _) fun _ => emits_require _ _

theorem emits_checkMode : Emits k n checkMode := emits_silent_bind emits_readMode fun _ => emits_require _ _

/-- An addressed operation emits what follows its checks, and that only where the arguments pass theirs. -/
theorem emits_addressedPrelude_require_bind {ok : Bool} {c : Cause} {f : Unit → Proc α} (h : ok = true → Emits k n (f ())) :
    Emits k n (addressedPrelude (require ok c) >>= f) := by
  rw [addressedPrelude_bind]
  exact emits_silent_bind emits_checkHandleInit fun _ => emits_require_bind fun hok =>
    emits_silent_bind emits_checkMode fun _ => h hok

theorem emits_addressedPrelude_noArgument_bind {f : Unit → Proc α} (h : ∀ u, Emits k n (f u)) :
    Emits k n (addressedPrelude noArgument >>= f) := by
  rw [addressedPrelude_bind]
  exact emits_silent_bind emits_checkHandleInit fun _ => emits_silent_bind (emits_pure ()) fun _ =>
    emits_silent_bind emits_checkMode h

/-! ### Bytes, resets and addressing -/

theorem emits_of_oneSection {m : Proc α} (h : ∀ s, OneSection n s (run m s).2) : Emits k n m :=
  fun s => ⟨(h s).trace_length_le, fun _ => (h s).tx⟩

theorem emits_writeByte (p : Prof) (x : Byte) : Emits k 34 (writeByte p x) := emits_of_oneSection (oneSection_writeByte p x)

theorem emits_readByte (p : Prof) : Emits k 50 (readByte p) := emits_of_oneSection fun s => (oneSection_readByte p s).1

/-- The longest reset is the standard one (R197). -/
theorem emits_busReset (p : Prof) : Emits k 886 (busReset p) :=
  (emits_of_oneSection (oneSection_busReset p)).mono (by cases p <;> decide)

theorem emits_writeBytes (p : Prof) : ∀ xs, Emits k (34 * xs.length) (writeBytes p xs)
  | [] => emits_pure _
  | _ :: xs => (emits_bind (emits_writeByte _ _) fun _ => emits_writeBytes p xs).mono (by rw [List.length_cons]; omega)

theorem emits_readBytes (p : Prof) : ∀ n, Emits k (50 * n) (readBytes p n)
  | 0 => emits_pure _
  | n + 1 => (emits_bind (emits_readByte _) fun _ => emits_bind_silent (emits_readBytes p n) fun _ => emits_pure _).mono
      (by omega)

theorem emits_sendRom (p : Prof) : Emits k (34 * 8) (sendRom p) :=
  emits_silent_bind emits_readRom fun r => emits_writeBytes p r.toList

theorem emits_resetThenByte (p q : Prof) (x : Byte) {rest : Unit → Proc α} (h : ∀ u, Emits k n (rest u)) :
    Emits k (886 + (34 + n)) (busReset p >>= fun _ => writeByte q x >>= rest) :=
  emits_bind (emits_busReset p) fun _ => emits_bind (emits_writeByte q x) h

/-- A reset, a command byte and at most the eight bytes of ROM. -/
theorem emits_addressDevices : Emits k 1192 addressDevices := by
  refine emits_silent_bind emits_readMode fun m => Emits.mono (a := 886 + (34 + 34 * 8)) ?_ (by decide)
  split
  · exact emits_resetThenByte _ _ _ fun _ => emits_pure _
  · exact emits_resetThenByte _ _ _ fun _ => emits_pure _
  · exact emits_resetThenByte _ _ _ fun _ => emits_bind_silent (emits_sendRom _) fun _ => emits_pure _
  · exact emits_resetThenByte _ _ _ fun _ => emits_bind_silent (emits_sendRom _) fun _ => emits_pure _
  · exact emits_resetThenByte _ _ _ fun _ => emits_pure _
  · exact emits_resetThenByte _ _ _ fun _ => emits_pure _
  · exact emits_fail _

/-! ### Search -/

theorem emits_searchTriplet (p : Nat) : Emits k 18 (searchTriplet p) := emits_of_oneSection (oneSection_searchTriplet p)

theorem emits_searchPositions : ∀ n, Emits k (n * 18) (searchPositions n)
  | 0 => emits_pure _
  | n + 1 => by
    refine (emits_bind (b := n * 18) (emits_searchTriplet _) fun t => ?_).mono (by omega)
    cases t with
    | none => exact emits_pure _
    | some d => exact emits_silent_bind (emits_updateSearch _) fun _ => emits_searchPositions n

theorem emits_searchPass (cmd : Byte) : Emits k (886 + 34 + 64 * 18) (searchPass cmd) :=
  emits_resetThenByte .std .std cmd fun _ => emits_silent_bind (emits_updateSearch _) fun _ => emits_searchPositions 64

/-- Each pass uses up one unit of fuel. -/
theorem emits_searchLoop (cmd : Byte) (n : Nat) : ∀ fuel, Emits k (fuel * (886 + 34 + 64 * 18)) (searchLoop cmd n fuel)
  | 0 => emits_pure _
  | fuel + 1 => by
    refine (emits_bind (b := fuel * (886 + 34 + 64 * 18)) (emits_searchPass _) fun full => ?_).mono (by omega)
    split
    · refine emits_silent_bind (emits_updateSearch _) fun _ => emits_silent_bind (emits_look _) fun q => ?_
      split
      · exact emits_pure _
      · exact emits_searchLoop cmd n fuel
    · exact emits_pure _

theorem emits_searchEngine (n : Nat) (cmd : Byte) : Emits k (n * (886 + 34 + 64 * 18)) (searchEngine n cmd) := by
  unfold searchEngine
  split
  · exact emits_pure _
  · exact emits_withSearch (emits_bind_silent (emits_searchLoop cmd n n) fun _ => emits_look _)

/-! ### Memory transactions -/

theorem emits_sendCounted (p : Prof) : ∀ xs, Emits false (34 * xs.length) (sendCounted p xs)
  | [] => emits_pure _
  | _ :: xs => (emits_bind (emits_writeByte _ _) fun _ => emits_silent_bind (emits_updateTx _) fun _ =>
      emits_sendCounted p xs).mono (by rw [List.length_cons]; omega)

theorem emits_readCounted (p : Prof) : Emits false 50 (readCounted p) :=
  emits_bind_silent (emits_readByte p) fun _ => emits_silent_bind (emits_updateTx _) fun _ =>
    emits_silent_bind (emits_updateTx _) fun _ => emits_pure _

theorem emits_readStatus (p : Prof) : Emits false 50 (readStatus p) :=
  emits_bind_silent (emits_readByte p) fun _ => emits_silent_bind (emits_updateTx _) fun _ => emits_pure _

theorem emits_readDataCounted (p : Prof) : ∀ n, Emits false (50 * n) (readDataCounted p n)
  | 0 => emits_pure _
  | n + 1 => (emits_bind (emits_readByte _) fun _ => emits_silent_bind (emits_updateTx _) fun _ =>
      emits_silent_bind (emits_updateTx _) fun _ => emits_readDataCounted p n).mono (by omega)

theorem emits_checkCrc : Emits k n checkCrc := emits_silent_bind (emits_look _) fun _ => emits_require _ _

/-- Four bytes, the wait and the status byte. -/
theorem emits_copyFrame (p : Prof) : Emits false (34 * 4 + (1 + 50)) (copyFrame p) :=
  emits_silent_bind (emits_look _) fun t => emits_bind (emits_writeBytes p (_ :: (txAddress t ++ [_]))) fun _ =>
    emits_bind (emits_delayMs _) fun _ => emits_bind_silent (emits_readStatus p) fun _ => emits_require _ _

/-- The write frame sends the command, the address and the data of its transaction. -/
theorem emitted_sendWriteScratchpad (p : Prof) {s : State} {tx : ScratchTx} (htx : s.tx = some tx) :
    Emitted false (34 * (3 + tx.data.length)) s (run (sendWriteScratchpad p) s).2 := by
  have hvalue : s.txValue = tx := by rw [State.txValue, htx, Option.getD_some]
  have hlength : (cfg.cmdWriteScratchpad :: (txAddress tx ++ tx.data)).length = 3 + tx.data.length := by
    simp only [List.length_cons, List.length_append, txAddress, List.length_nil]
    omega
  rw [sendWriteScratchpad, run_bind_ok (run_look _ _), hvalue, ← hlength]
  exact emits_sendCounted p _ s

/-- The data sent is the transaction's own, since the addressing sequence before it leaves the transaction as it is. -/
theorem emits_withTx_sendWriteScratchpad (addr : Half) (data : List Byte) {rest : Prof → Proc α}
    (h : ∀ p, Emits false n (rest p)) : Emits false (1192 + (34 * (3 + data.length) + n))
      (withTx addr data (addressDevices >>= fun p => sendWriteScratchpad p >>= fun _ => rest p)) := by
  intro s
  have haddress := emits_addressDevices (k := true) { s with tx := some ⟨addr, data, cfg.crcInit, []⟩ }
  rw [run_withTx]
  refine ⟨(emitted_bind (k := false) ⟨haddress.length, nofun⟩ fun p t hrun => ?_).length, nofun⟩
  have htx := haddress.tx rfl
  rw [hrun] at htx
  exact emitted_bind (emitted_sendWriteScratchpad p htx) fun _ u _ => h p u

theorem emits_memoryRead (addr : Half) (len : Nat) : Emits k (1192 + (34 * 3 + 50 * len)) (memoryRead addr len) :=
  emits_bind emits_addressDevices fun p => emits_bind (emits_writeBytes p [_, _, _]) fun _ => emits_readBytes p len

/-- Two addressed sessions: the write of a page with its two CRC bytes, and the copy. -/
theorem emits_pageWrite (addr : Half) {data : List Byte} (h : data.length ≤ 8) : Emits false 3045 (pageWrite addr data) :=
  (emits_withTx_sendWriteScratchpad addr data fun p => emits_bind (emits_readCounted p) fun _ =>
    emits_bind (emits_readCounted p) fun _ => emits_silent_bind emits_checkCrc fun _ =>
      emits_bind emits_addressDevices fun q => emits_copyFrame q).mono (by omega)

theorem emits_readScratchpadFrame : Emits false 1926 readScratchpadFrame := by
  refine Emits.mono (a := 1192 + (34 * 1 + (50 + (50 + (50 + (50 * 8 + (50 + (50 + 50)))))))) ?_ (by decide)
  exact emits_bind emits_addressDevices fun p => emits_bind (emits_sendCounted p [_]) fun _ =>
    emits_bind (emits_readCounted p) fun _ => emits_bind (emits_readCounted p) fun _ =>
      emits_silent_bind (emits_updateTx _) fun _ => emits_bind (emits_readCounted p) fun _ =>
        emits_bind (emits_readDataCounted p 8) fun _ => emits_bind (emits_readCounted p) fun _ =>
          emits_bind (emits_readCounted p) fun _ => emits_bind_silent (emits_readStatus p) fun _ =>
            emits_silent_bind (emits_require _ _) fun _ => emits_silent_bind (emits_require _ _) fun _ =>
              emits_silent_bind emits_checkCrc fun _ => emits_silent_bind (emits_look _) fun _ => emits_pure _

/-! ### The chunks of a WRITE -/

theorem length_chunkData_le (data : List Byte) (c : Cursor) : (chunkData data c).length ≤ 8 - pageOffset c.a := by
  have hchunk : chunkLen c ≤ 8 - pageOffset c.a := Nat.min_le_left _ _
  exact (List.length_take_le _ _).trans hchunk

/-- At most a page is read and written. -/
theorem emits_writeChunk (data : List Byte) (c : Cursor) : Emits false (1694 + 3045) (writeChunk data c) := by
  have hdata := length_chunkData_le data c
  have hoffset : pageOffset c.a < 8 := Nat.mod_lt _ (by decide)
  unfold writeChunk
  dsimp only
  split
  · exact (emits_pageWrite _ (by omega)).mono (by decide)
  · refine fun s => emitted_bind (emits_memoryRead _ 8 s) fun buf t hrun => emits_pageWrite _ ?_ t
    have hbuf : buf.length = 8 := length_of_run_memoryRead hrun
    rw [length_overlay (by omega), hbuf]

/-- The number of pages that `len` bytes from the address `a` on touch. -/
def pagesTouched (a len : Nat) : Nat := if len = 0 then 0 else (a % 8 + len + 7) / 8

/-- The bytes up to the next page boundary are one page of them. -/
theorem pagesTouched_step (a : Nat) {len : Nat} (h : 0 < len) :
    1 + pagesTouched (a + min (8 - a % 8) len) (len - min (8 - a % 8) len) ≤ pagesTouched a len := by
  rw [pagesTouched, pagesTouched, if_neg h.ne']
  obtain hbeyond | hwithin := Nat.lt_or_ge (8 - a % 8) len
  · rw [min_eq_left hbeyond.le, if_neg (by omega)]
    omega
  · rw [min_eq_right hwithin, if_pos (Nat.sub_self len)]
    omega

theorem pagesTouched_le (a : Nat) {len : Nat} (h : len ≤ 128) : pagesTouched a len ≤ 17 := by
  rw [pagesTouched]
  split <;> omega

/-- A chunk for each page. -/
theorem emits_writePages (a : Nat) (data : List Byte) :
    Emits false (pagesTouched a data.length * (1694 + 3045)) (writePages a data) := by
  induction a, data using writePages.induct with
  | case1 a =>
    rw [writePages_nil]
    exact emits_pure ()
  | case2 a data hne ih =>
    have hstep := pagesTouched_step a (List.length_pos_of_ne_nil hne)
    rw [chunkLen_eq, List.length_drop] at ih
    rw [writePages_of_ne_nil a hne, chunkLen_eq]
    exact (emits_bind (emits_writeChunk _ _) fun _ => ih).mono (by omega)

theorem emits_withCursor_writeLoop (a : Nat) {data : List Byte} (h : data.length ≤ 128) :
    Emits false (17 * (1694 + 3045)) (withCursor ⟨a, 0, data.length⟩ (writeLoop data data.length)) := by
  intro s
  have hpages := (emits_writePages a data).mono (Nat.mul_le_mul_right _ (pagesTouched_le a h)) s
  rw [run_withCursor_writeLoop data data.length ⟨a, 0, data.length⟩ le_rfl rfl s]
  exact ⟨hpages.length, nofun⟩

/-! ### Host operations -/

/-- The events of the longest search: 64 passes of the longest reset, a byte and 64 triplets (R253). -/
def maxHostEvents : Nat := 64 * (886 + 34 + 64 * 18)

theorem emits_initBody : Emits false maxHostEvents initBody := by
  refine emits_silent_bind emits_checkHandle fun _ => emits_silent_bind (emits_look _) fun _ =>
    emits_silent_bind (emits_require _ _) fun _ => Emits.mono (a := 1) ?_ (by decide)
  exact emits_bind_silent emits_busInit fun _ => emits_silent_bind (emits_update (fun _ => rfl) fun _ => rfl) fun _ =>
    emits_pure _

theorem emits_deinitBody : Emits false maxHostEvents deinitBody := by
  refine emits_silent_bind emits_checkHandleInit fun _ => Emits.mono (a := 1) ?_ (by decide)
  exact emits_bind_silent emits_busDeinit fun _ => emits_silent_bind (emits_update (fun _ => rfl) fun _ => rfl) fun _ =>
    emits_pure _

theorem emits_setModeBody (m : Byte) : Emits false maxHostEvents (setModeBody m) :=
  emits_silent_bind emits_checkHandleInit fun _ => emits_silent_bind (emits_update (fun _ => rfl) fun _ => rfl) fun _ =>
    emits_pure _

theorem emits_getModeBody : Emits false maxHostEvents getModeBody :=
  emits_silent_bind emits_checkHandleInit fun _ => emits_silent_bind emits_readMode fun _ => emits_pure _

theorem emits_setRomBody (r : Bytes8) : Emits false maxHostEvents (setRomBody r) :=
  emits_silent_bind emits_checkHandleInit fun _ => emits_silent_bind (emits_update (fun _ => rfl) fun _ => rfl) fun _ =>
    emits_pure _

theorem emits_getRomBody : Emits false maxHostEvents getRomBody :=
  emits_silent_bind emits_checkHandleInit fun _ => emits_silent_bind emits_readRom fun _ => emits_pure _

theorem emits_romMatchBody : Emits false maxHostEvents romMatchBody :=
  emits_silent_bind emits_checkHandleInit fun _ => (emits_resetThenByte .std .std _ fun _ =>
    emits_bind_silent (emits_sendRom .od) fun _ => emits_pure _).mono (by decide)

theorem emits_readBody (addr len : Half) : Emits false maxHostEvents (readBody addr len) :=
  emits_addressedPrelude_require_bind fun hrange => by
    have hrange : addr.toNat + len.toNat ≤ 128 := of_decide_eq_true hrange
    refine (emits_bind_silent (emits_memoryRead addr len.toNat) fun _ => emits_pure _).mono ?_
    rw [maxHostEvents]
    omega

theorem emits_writeBody (addr : Half) (data : List Byte) : Emits false maxHostEvents (writeBody addr data) :=
  emits_addressedPrelude_require_bind fun hrange => by
    have hrange : addr.toNat + data.length ≤ 128 := of_decide_eq_true hrange
    exact (emits_bind_silent (emits_withCursor_writeLoop addr.toNat (by omega)) fun _ => emits_pure _).mono (by decide)

theorem emits_readConfigBody : Emits false maxHostEvents readConfigBody :=
  emits_addressedPrelude_noArgument_bind fun _ =>
    (emits_bind_silent (emits_memoryRead _ 8) fun _ => emits_pure _).mono (by decide)

theorem emits_writeConfigBody (block : Bytes8) : Emits false maxHostEvents (writeConfigBody block) :=
  emits_addressedPrelude_noArgument_bind fun _ =>
    (emits_bind_silent (emits_pageWrite (data := block.toList) _ le_rfl) fun _ => emits_pure _).mono (by decide)

theorem emits_readScratchpadBody : Emits false maxHostEvents readScratchpadBody :=
  emits_addressedPrelude_noArgument_bind fun _ => (emits_withTx _ _ emits_readScratchpadFrame).mono (by decide)

theorem emits_writeScratchpadBody (addr : Half) (data : Bytes8) : Emits false maxHostEvents (writeScratchpadBody addr data) := by
  refine emits_addressedPrelude_require_bind fun _ => Emits.mono (a := 1192 + (34 * (3 + 8) + (50 + (50 + 50)))) ?_ (by decide)
  exact emits_bind_silent (emits_withTx_sendWriteScratchpad addr data.toList fun p => emits_bind (emits_readCounted p) fun _ =>
    emits_bind (emits_readCounted p) fun _ => emits_bind_silent (emits_readStatus p) fun _ =>
      emits_silent_bind emits_checkCrc fun _ => emits_require _ _) fun _ => emits_pure _

theorem emits_copyScratchpadBody (addr : Half) : Emits false maxHostEvents (copyScratchpadBody addr) :=
  emits_addressedPrelude_require_bind fun _ =>
    (emits_bind_silent (emits_withTx _ _ (emits_bind emits_addressDevices fun p => emits_copyFrame p)) fun _ =>
      emits_pure _).mono (by decide)

/-- The capacity is at most 64, so a search has at most 64 passes (R253). -/
theorem emits_searchRomBody (n : Byte) : Emits false maxHostEvents (searchRomBody n) :=
  emits_silent_bind emits_checkHandleInit fun _ => emits_require_bind fun hcapacity => by
    have hcapacity : n.toNat ≤ 64 := of_decide_eq_true hcapacity
    exact (emits_bind_silent (emits_searchEngine n.toNat _) fun _ => emits_pure _).mono (Nat.mul_le_mul_right _ hcapacity)

/-- The response adds no event to those of the body. -/
theorem Proc.Emits.trace_length_of_runHost {body : Proc Output} (h : Emits k n body) {status : Cause → Byte} {s t : State}
    (hexec : runHost status body s = .next t) : t.trace.length ≤ s.trace.length + n := by
  injection hexec with ht
  rw [← ht, hostEnd_trace]
  exact (h s).length

/-- Settles O12: each host operation runs one body of bounded sequences, the longest of them a full search. -/
theorem hostOperationsEmitBoundedEvents : Obligations.HostOperationsEmitBoundedEvents := by
  intro i s t hi hexec
  cases i with
  | init => exact emits_initBody.trace_length_of_runHost hexec
  | deinit => exact emits_deinitBody.trace_length_of_runHost hexec
  | setMode m => exact (emits_setModeBody m).trace_length_of_runHost hexec
  | getMode => exact emits_getModeBody.trace_length_of_runHost hexec
  | setRom r => exact (emits_setRomBody r).trace_length_of_runHost hexec
  | getRom => exact emits_getRomBody.trace_length_of_runHost hexec
  | romMatch => exact emits_romMatchBody.trace_length_of_runHost hexec
  | read addr len => exact (emits_readBody addr len).trace_length_of_runHost hexec
  | write addr data => exact (emits_writeBody addr data).trace_length_of_runHost hexec
  | readConfig => exact emits_readConfigBody.trace_length_of_runHost hexec
  | writeConfig block => exact (emits_writeConfigBody block).trace_length_of_runHost hexec
  | readScratchpad => exact emits_readScratchpadBody.trace_length_of_runHost hexec
  | writeScratchpad addr data => exact (emits_writeScratchpadBody addr data).trace_length_of_runHost hexec
  | copyScratchpad addr => exact (emits_copyScratchpadBody addr).trace_length_of_runHost hexec
  | readMemory addr len => exact (emits_readBody addr len).trace_length_of_runHost hexec
  | searchRom n => exact (emits_searchRomBody n).trace_length_of_runHost hexec
  | _ => cases hi

end Sys2Proof.Machine
end
